-- ==== Sys2Proof/Word.lean ====
section
/-! DEFINITION. The word types of MCC-CORE (00_scope.md R8, R10). -/

namespace Sys2Proof

/-- A register, a data word, an address, an ALU result: `XLEN` = 32 bits (R10). -/
abbrev Word := BitVec 32

/-- A register field: four bits, so that every index is in 0 .. 15 (R17, R25). -/
abbrev Reg := BitVec 4

/-- The immediate field: a 12-bit two's-complement value (R67). -/
abbrev Imm := BitVec 12

/-- `sext_12` (R11): the immediate sign-extended to a word. -/
def sext12 (v : Imm) : Word := v.signExtend 32

/-- The destination of JAL whatever its `rd` field holds (R20, R96). -/
def linkReg : Reg := 15

end Sys2Proof
end

