-- ==== Sys2Proof/Config.lean ====
section
/-! DEFINITION. The parameters that R9 leaves open, but for those that are lengths of lists of the state (`N_CORES`,
`PROG_LEN[k]`) and `MEM_INIT`, which is the memory the machine is booted with (log 1). -/

namespace Sys2Proof

/-- The sizes fixed at construction (00_scope.md R9). The machine carries them in its state and no step changes them, so a
statement about every state holds for every choice of them. -/
structure Config where
  /-- `INDEX_BITS`: each cache has `2 ^ indexBits` lines. -/
  indexBits : Nat
  /-- `MEM_WORDS`: the valid data addresses are 0 .. memWords - 1. -/
  memWords : Nat
  /-- `MEM_LATENCY`: memory ticks from the start of an operation to its completion. -/
  memLatency : Nat
deriving DecidableEq, Repr

/-- `N_LINES` (R9, R31). -/
def Config.nLines (c : Config) : Nat := 2 ^ c.indexBits

/-- The constraints of R9 on the parameters held here (INDEX_BITS >= 0 holds of every natural number); with those on N_CORES and
PROG_LEN[k] they are `State.parametersOk` of Machine/Ops.lean. -/
def Config.wf (c : Config) : Bool :=
  decide (1 ≤ c.memWords) && decide (c.memWords ≤ 2 ^ 31) && decide (1 ≤ c.memLatency)

/-- The reference sizes of 95_test_vectors.md (its conventions; the latency is the one most of its programs use).
DESIGN CHOICE (log 1): they are examples, not properties of the hardware. -/
def Config.reference : Config := { indexBits := 2, memWords := 64, memLatency := 2 }

end Sys2Proof
end

