-- ==== Sys2Proof/Syntax.lean ====
section
/-! DEFINITION. The instructions: one constructor for each row of spec/opcode_table.json (30_encoding.md R61 to R65).
A RegisterOp mnemonic has two rows, format R and format RI; the constructor of the second ends in `Imm`. Bubble is no
instruction of the table and has no encoding (R70): it is a content of a pipeline slot, in Machine/State.lean (log 4). -/

namespace Sys2Proof

/-- An instruction record as it is loaded (R61); a field the format does not use is absent here. -/
inductive Instr where
  | add (rd rs rt : Reg)
  | addImm (rd rs : Reg) (imm : Imm)
  | sub (rd rs rt : Reg)
  | subImm (rd rs : Reg) (imm : Imm)
  | and (rd rs rt : Reg)
  | andImm (rd rs : Reg) (imm : Imm)
  | or (rd rs rt : Reg)
  | orImm (rd rs : Reg) (imm : Imm)
  | xor (rd rs rt : Reg)
  | xorImm (rd rs : Reg) (imm : Imm)
  | mul (rd rs rt : Reg)
  | mulImm (rd rs : Reg) (imm : Imm)
  | sll (rd rs rt : Reg)
  | sllImm (rd rs : Reg) (imm : Imm)
  | srl (rd rs rt : Reg)
  | srlImm (rd rs : Reg) (imm : Imm)
  | sra (rd rs rt : Reg)
  | sraImm (rd rs : Reg) (imm : Imm)
  | beq (rs rt : Reg) (imm : Imm)
  | bne (rs rt : Reg) (imm : Imm)
  | blt (rs rt : Reg) (imm : Imm)
  | bgt (rs rt : Reg) (imm : Imm)
  | ble (rs rt : Reg) (imm : Imm)
  | bge (rs rt : Reg) (imm : Imm)
  | jal (rd : Reg) (imm : Imm)
  | lw (rd rs rt : Reg)
  | sw (rd rs rt : Reg)
  | ll (rd rs rt : Reg)
  | sc (rd rs rt : Reg)
  | halt
deriving DecidableEq, Repr

/-- The variant tags that a program can contain (R61, R62). -/
inductive Variant where
  | registerOp | branch | jumpAndLink | memoryOp | halt
deriving DecidableEq, Repr

/-- "The variant of an instruction is a function of its opcode" (R62). -/
def Instr.variant : Instr → Variant
  | .add .. | .addImm .. | .sub .. | .subImm .. | .and .. | .andImm .. | .or .. | .orImm .. | .xor .. | .xorImm ..
  | .mul .. | .mulImm .. | .sll .. | .sllImm .. | .srl .. | .srlImm .. | .sra .. | .sraImm .. => .registerOp
  | .beq .. | .bne .. | .blt .. | .bgt .. | .ble .. | .bge .. => .branch
  | .jal .. => .jumpAndLink
  | .lw .. | .sw .. | .ll .. | .sc .. => .memoryOp
  | .halt => .halt

/-- The register field `rd` of the record; a field the format does not have is written as 0 (R61). -/
def Instr.rd : Instr → Reg
  | .add rd .. | .addImm rd .. | .sub rd .. | .subImm rd .. | .and rd .. | .andImm rd .. | .or rd .. | .orImm rd ..
  | .xor rd .. | .xorImm rd .. | .mul rd .. | .mulImm rd .. | .sll rd .. | .sllImm rd .. | .srl rd .. | .srlImm rd ..
  | .sra rd .. | .sraImm rd .. | .jal rd .. | .lw rd .. | .sw rd .. | .ll rd .. | .sc rd .. => rd
  | .beq .. | .bne .. | .blt .. | .bgt .. | .ble .. | .bge .. | .halt => 0

end Sys2Proof
end

