-- ==== Sys2Proof/WellFormed.lean ====
section
/-! DEFINITION. Which instruction records may be loaded (30_encoding.md R69, 60_exceptions.md R168). The field widths of
`Instr` already exclude an index over 15 and an immediate outside [-2048, 2047]; what is left is one check. -/

namespace Sys2Proof

/-- "`rd` = 1 and the opcode is a RegisterOp or a MemoryOp" (R69): the form that is rejected at load time (R168) and,
should it be met at run time, fatal in Decode (R169). SW is covered although its `rd` is a source (R191, D11). -/
def Instr.reg1Dest (i : Instr) : Bool :=
  (decide (i.variant = .registerOp) || decide (i.variant = .memoryOp)) && decide (i.rd = 1)

/-- The records that pass the load-time check. -/
def Instr.wf (i : Instr) : Bool := !i.reg1Dest

end Sys2Proof
end

