-- ==== Sys2Proof/Decode.lean ====
section
/-! DEFINITION. The 32-bit word form of an instruction (30_encoding.md R63 to R71): the decoder, total, rejecting by name
every word R69 calls illegal, and the encoder. -/

namespace Sys2Proof

/-- The fields of R63 that a format can require to be zero. -/
inductive WordField where
  | rd | rs | rt | imm12
deriving DecidableEq, Repr

/-- Why a word is illegal (R69). R69 says "when any of these holds" and gives no order, so which one is named for a word that is illegal on several
grounds is the model's (DESIGN CHOICE, log 13): first the opcode, then `I`, then the mbz fields in the order rd, rs, rt, imm12, then `rd` = 1. -/
inductive Illegal where
  /-- `opcode` > 20. -/
  | unassignedOpcode
  /-- `I` = 1 and the opcode is not one of the nine RegisterOp opcodes. -/
  | immediateSelect
  /-- A field marked mbz for the opcode's format is not zero. -/
  | nonzeroField (f : WordField)
  /-- `rd` = 1 and the opcode is a RegisterOp or a MemoryOp. -/
  | reg1Destination
deriving DecidableEq, Repr

/-- `I`, bit 31 (R63). -/
def selectField (w : BitVec 32) : Bool := w.getLsbD 31
/-- `opcode`, bits 30:24 (R63). -/
def opcodeField (w : BitVec 32) : BitVec 7 := w.extractLsb' 24 7
/-- `rd`, bits 23:20 (R63). -/
def rdField (w : BitVec 32) : Reg := w.extractLsb' 20 4
/-- `rs`, bits 19:16 (R63). -/
def rsField (w : BitVec 32) : Reg := w.extractLsb' 16 4
/-- `rt`, bits 15:12 (R63). -/
def rtField (w : BitVec 32) : Reg := w.extractLsb' 12 4
/-- `imm12`, bits 11:0 (R63). -/
def immField (w : BitVec 32) : Imm := w.extractLsb' 0 12

/-- Format R (R64), RegisterOp: `imm12` is mbz and `rd` is not 1 (in this order: DESIGN CHOICE, log 13). -/
def formatR (c : Reg → Reg → Reg → Instr) (rd rs rt : Reg) (imm : Imm) : Except Illegal Instr :=
  if imm ≠ 0 then .error (.nonzeroField .imm12)
  else if rd = 1 then .error .reg1Destination
  else .ok (c rd rs rt)

/-- Format RI (R64): `rt` is mbz and `rd` is not 1 (in this order: DESIGN CHOICE, log 13). -/
def formatRI (c : Reg → Reg → Imm → Instr) (rd rs rt : Reg) (imm : Imm) : Except Illegal Instr :=
  if rt ≠ 0 then .error (.nonzeroField .rt)
  else if rd = 1 then .error .reg1Destination
  else .ok (c rd rs imm)

/-- Format B (R64): `rd` is mbz. -/
def formatB (c : Reg → Reg → Imm → Instr) (rd rs rt : Reg) (imm : Imm) : Except Illegal Instr :=
  if rd ≠ 0 then .error (.nonzeroField .rd) else .ok (c rs rt imm)

/-- Format J (R64): `rs` and `rt` are mbz (`rs` is looked at first: DESIGN CHOICE, log 13); `rd` is ignored and may be 1. -/
def formatJ (rd rs rt : Reg) (imm : Imm) : Except Illegal Instr :=
  if rs ≠ 0 then .error (.nonzeroField .rs)
  else if rt ≠ 0 then .error (.nonzeroField .rt)
  else .ok (.jal rd imm)

/-- Format M (R64): `imm12` is mbz and `rd` is not 1 (in this order: DESIGN CHOICE, log 13). -/
def formatM (c : Reg → Reg → Reg → Instr) (rd rs rt : Reg) (imm : Imm) : Except Illegal Instr :=
  if imm ≠ 0 then .error (.nonzeroField .imm12)
  else if rd = 1 then .error .reg1Destination
  else .ok (c rd rs rt)

/-- Format H (R64): every field is mbz (looked at in the order rd, rs, rt, imm12: DESIGN CHOICE, log 13). -/
def formatH (rd rs rt : Reg) (imm : Imm) : Except Illegal Instr :=
  if rd ≠ 0 then .error (.nonzeroField .rd)
  else if rs ≠ 0 then .error (.nonzeroField .rs)
  else if rt ≠ 0 then .error (.nonzeroField .rt)
  else if imm ≠ 0 then .error (.nonzeroField .imm12)
  else .ok .halt

/-- The opcode numbers of R65, with the formats of R64; an illegal opcode or `I` is named before any field (DESIGN CHOICE, log 13). -/
def decodeFields (sel : Bool) (op : BitVec 7) (rd rs rt : Reg) (imm : Imm) : Except Illegal Instr :=
  match op.toNat, sel with
  | 0, false => formatR .add rd rs rt imm
  | 0, true => formatRI .addImm rd rs rt imm
  | 1, false => formatR .sub rd rs rt imm
  | 1, true => formatRI .subImm rd rs rt imm
  | 2, false => formatR .and rd rs rt imm
  | 2, true => formatRI .andImm rd rs rt imm
  | 3, false => formatR .or rd rs rt imm
  | 3, true => formatRI .orImm rd rs rt imm
  | 4, false => formatR .xor rd rs rt imm
  | 4, true => formatRI .xorImm rd rs rt imm
  | 5, false => formatR .mul rd rs rt imm
  | 5, true => formatRI .mulImm rd rs rt imm
  | 6, false => formatR .sll rd rs rt imm
  | 6, true => formatRI .sllImm rd rs rt imm
  | 7, false => formatR .srl rd rs rt imm
  | 7, true => formatRI .srlImm rd rs rt imm
  | 8, false => formatR .sra rd rs rt imm
  | 8, true => formatRI .sraImm rd rs rt imm
  | 9, false => formatB .beq rd rs rt imm
  | 10, false => formatB .bne rd rs rt imm
  | 11, false => formatB .blt rd rs rt imm
  | 12, false => formatB .bgt rd rs rt imm
  | 13, false => formatB .ble rd rs rt imm
  | 14, false => formatB .bge rd rs rt imm
  | 15, false => formatJ rd rs rt imm
  | 16, false => formatM .lw rd rs rt imm
  | 17, false => formatM .sw rd rs rt imm
  | 18, false => formatM .ll rd rs rt imm
  | 19, false => formatM .sc rd rs rt imm
  | 20, false => formatH rd rs rt imm
  | n, _ => if n > 20 then .error .unassignedOpcode else .error .immediateSelect

/-- Decoding a word (R71). -/
def decodeWord (w : BitVec 32) : Except Illegal Instr :=
  decodeFields (selectField w) (opcodeField w) (rdField w) (rsField w) (rtField w) (immField w)

/-- What the host asks: the instruction read from the word whose bits are `w`, numbered as spec/opcode_table.json numbers
them. Every instruction is one 32-bit word (R63), so `nbits` adds nothing but a bound. -/
def decodeTableWord (nbits w : Nat) : Option Instr :=
  if nbits ≤ 32 ∧ w < 2 ^ 32 then (decodeWord (BitVec.ofNat 32 w)).toOption else none

/-- The six fields of R63 laid out in a word. -/
def packWord (sel : Bool) (op : BitVec 7) (rd rs rt : Reg) (imm : Imm) : BitVec 32 :=
  (((((BitVec.ofBool sel ++ op : BitVec 8) ++ rd : BitVec 12) ++ rs : BitVec 16) ++ rt : BitVec 20) ++ imm : BitVec 32)

/-- Encoding: "the inverse, with every unused field written as 0" (R71). -/
def encode : Instr → BitVec 32
  | .add rd rs rt => packWord false 0 rd rs rt 0
  | .addImm rd rs imm => packWord true 0 rd rs 0 imm
  | .sub rd rs rt => packWord false 1 rd rs rt 0
  | .subImm rd rs imm => packWord true 1 rd rs 0 imm
  | .and rd rs rt => packWord false 2 rd rs rt 0
  | .andImm rd rs imm => packWord true 2 rd rs 0 imm
  | .or rd rs rt => packWord false 3 rd rs rt 0
  | .orImm rd rs imm => packWord true 3 rd rs 0 imm
  | .xor rd rs rt => packWord false 4 rd rs rt 0
  | .xorImm rd rs imm => packWord true 4 rd rs 0 imm
  | .mul rd rs rt => packWord false 5 rd rs rt 0
  | .mulImm rd rs imm => packWord true 5 rd rs 0 imm
  | .sll rd rs rt => packWord false 6 rd rs rt 0
  | .sllImm rd rs imm => packWord true 6 rd rs 0 imm
  | .srl rd rs rt => packWord false 7 rd rs rt 0
  | .srlImm rd rs imm => packWord true 7 rd rs 0 imm
  | .sra rd rs rt => packWord false 8 rd rs rt 0
  | .sraImm rd rs imm => packWord true 8 rd rs 0 imm
  | .beq rs rt imm => packWord false 9 0 rs rt imm
  | .bne rs rt imm => packWord false 10 0 rs rt imm
  | .blt rs rt imm => packWord false 11 0 rs rt imm
  | .bgt rs rt imm => packWord false 12 0 rs rt imm
  | .ble rs rt imm => packWord false 13 0 rs rt imm
  | .bge rs rt imm => packWord false 14 0 rs rt imm
  | .jal rd imm => packWord false 15 rd 0 0 imm
  | .lw rd rs rt => packWord false 16 rd rs rt 0
  | .sw rd rs rt => packWord false 17 rd rs rt 0
  | .ll rd rs rt => packWord false 18 rd rs rt 0
  | .sc rd rs rt => packWord false 19 rd rs rt 0
  | .halt => packWord false 20 0 0 0 0

/-- A row of spec/opcode_table.json: the `mask` and `match` that R66 gives the instruction's format. -/
structure TableRow where
  mask : BitVec 32
  pattern : BitVec 32
deriving DecidableEq, Repr

/-- The row of R, RI, B, J, M and H (R66). -/
def Instr.row : Instr → TableRow
  | .add .. => ⟨0xFF000FFF, 0x00000000⟩
  | .addImm .. => ⟨0xFF00F000, 0x80000000⟩
  | .sub .. => ⟨0xFF000FFF, 0x01000000⟩
  | .subImm .. => ⟨0xFF00F000, 0x81000000⟩
  | .and .. => ⟨0xFF000FFF, 0x02000000⟩
  | .andImm .. => ⟨0xFF00F000, 0x82000000⟩
  | .or .. => ⟨0xFF000FFF, 0x03000000⟩
  | .orImm .. => ⟨0xFF00F000, 0x83000000⟩
  | .xor .. => ⟨0xFF000FFF, 0x04000000⟩
  | .xorImm .. => ⟨0xFF00F000, 0x84000000⟩
  | .mul .. => ⟨0xFF000FFF, 0x05000000⟩
  | .mulImm .. => ⟨0xFF00F000, 0x85000000⟩
  | .sll .. => ⟨0xFF000FFF, 0x06000000⟩
  | .sllImm .. => ⟨0xFF00F000, 0x86000000⟩
  | .srl .. => ⟨0xFF000FFF, 0x07000000⟩
  | .srlImm .. => ⟨0xFF00F000, 0x87000000⟩
  | .sra .. => ⟨0xFF000FFF, 0x08000000⟩
  | .sraImm .. => ⟨0xFF00F000, 0x88000000⟩
  | .beq .. => ⟨0xFFF00000, 0x09000000⟩
  | .bne .. => ⟨0xFFF00000, 0x0A000000⟩
  | .blt .. => ⟨0xFFF00000, 0x0B000000⟩
  | .bgt .. => ⟨0xFFF00000, 0x0C000000⟩
  | .ble .. => ⟨0xFFF00000, 0x0D000000⟩
  | .bge .. => ⟨0xFFF00000, 0x0E000000⟩
  | .jal .. => ⟨0xFF0FF000, 0x0F000000⟩
  | .lw .. => ⟨0xFF000FFF, 0x10000000⟩
  | .sw .. => ⟨0xFF000FFF, 0x11000000⟩
  | .ll .. => ⟨0xFF000FFF, 0x12000000⟩
  | .sc .. => ⟨0xFF000FFF, 0x13000000⟩
  | .halt => ⟨0xFFFFFFFF, 0x14000000⟩

end Sys2Proof
end

