-- ==== Sys2Proof/Machine/State.lean ====
section
/-! DEFINITION. The state of the machine, as plain data (10_state.md), the ways a step can stop (60_exceptions.md), and the
state right after reset (R39). INVENTORY.md lists every field with the rule that names it. -/

namespace Sys2Proof.Machine

/-- The five stages (R14). -/
inductive Stage where
  | fetch | decode | execute | memory | writeBack
deriving DecidableEq, Repr

/-- A record one of whose register indexes exceeds 15: "a model whose record holds wider integers" (R116). Its indexes are `rd`, `rs` and `rt`; `op` gives
its opcode, its format and its immediate, the register fields in `op` itself meaning nothing, and is `none` when the opcode is none of the 21 either
(log 4). -/
structure WideRecord where
  op : Option Instr
  rd : Nat
  rs : Nat
  rt : Nat
deriving DecidableEq, Repr

/-- The two defects of a corrupted instruction record that a stage must stop on (R167 codes 2 and 4, R169). -/
inductive Defect where
  /-- A register index of the record exceeds 15. -/
  | registerRange (w : WideRecord)
  /-- The record's opcode is none of the 21 and not Bubble. -/
  | opcode
deriving DecidableEq, Repr

/-- The instruction record a slot holds (R25, R61). A record no program contains is one of the other two: Bubble (R110), or a
corrupted record (R169), which no run from a legal program meets (log 4). -/
inductive Content where
  | bubble
  | instr (i : Instr)
  | corrupt (d : Defect)
deriving DecidableEq, Repr

/-- A slot record (R25): the immutable instruction record, then the values the stages set. A field not yet set by its stage
"has no meaning and no rule reads it"; it holds 0 here (DESIGN CHOICE, log 5). -/
structure Slot where
  content : Content
  ipc : Word := 0
  a : Word := 0
  b : Word := 0
  sdata : Word := 0
  ret : Word := 0
  result : Word := 0
  addr : Word := 0
  scOk : Bool := false
  ldata : Word := 0
deriving DecidableEq, Repr

/-- "exactly 5 slots per core, indexed by stage" (R24). -/
structure Slots where
  fetch : Slot
  decode : Slot
  execute : Slot
  memory : Slot
  writeBack : Slot
deriving DecidableEq, Repr

/-- One flag a stage (R26). -/
structure StageFlags where
  fetch : Bool := false
  decode : Bool := false
  execute : Bool := false
  memory : Bool := false
  writeBack : Bool := false
deriving DecidableEq, Repr

/-- The deferred register write while it is valid (R27). -/
structure DeferredWrite where
  reg : Reg
  val : Word
deriving DecidableEq, Repr

/-- The MSI state of a line (R31). -/
inductive Msi where
  | modified | shared | invalid
deriving DecidableEq, Repr

/-- A cache line (R31): one word, the tag held zero-extended (log 11). -/
structure Line where
  state : Msi
  tag : Word
  data : Word
deriving DecidableEq, Repr

/-- A core's cache: its lines and its four counters (R31, R32). -/
structure Cache where
  lines : List Line
  hits : Nat := 0
  misses : Nat := 0
  memReads : Nat := 0
  memWrites : Nat := 0
deriving DecidableEq, Repr

/-- The coherence commands a core requests (R33). -/
inductive BusCmd where
  | busRd | busRdX
deriving DecidableEq, Repr

/-- A pending request `bus.pend[k]` (R33). -/
structure Request where
  cmd : BusCmd
  addr : Word
deriving DecidableEq, Repr

/-- The `path` of a transaction (R33). -/
inductive Path where
  | memRead | flush | cacheSupply
deriving DecidableEq, Repr

/-- The `path` of a transaction with its `data`. On the path MemRead the data is unspecified until the memory completes (R146, R147)
and is not represented (log 7). -/
inductive Source where
  | memRead
  | flush (data : Word)
  | cacheSupply (data : Word)
deriving DecidableEq, Repr

/-- The transaction in flight, `bus.txn` (R33). -/
structure Txn where
  owner : Nat
  cmd : BusCmd
  addr : Word
  source : Source
deriving DecidableEq, Repr

/-- An entry of the watch table (R34); `succeededFor c` names a core. -/
inductive Watch where
  | notWatched | watched | succeededFor (c : Nat)
deriving DecidableEq, Repr

/-- The `kind` of a memory operation, a write with its `data` (R35, R159). -/
inductive MemOpKind where
  | read
  | write (data : Word)
deriving DecidableEq, Repr

/-- The operation in flight, `memop` while busy (R35). -/
structure MemOp where
  kind : MemOpKind
  addr : Word
  remaining : Nat
deriving DecidableEq, Repr

/-- What a memory tick reports (R160). -/
inductive MemResult where
  | noOp | readCompleted | writeCompleted
deriving DecidableEq, Repr

/-- The two kinds of bus event (R154). -/
inductive BusEventKind where
  | granted | completed
deriving DecidableEq, Repr

/-- A bus event: tick, owner, command, address and path (R154). -/
structure BusEvent where
  kind : BusEventKind
  tick : Nat
  owner : Nat
  cmd : BusCmd
  addr : Word
  path : Path
deriving DecidableEq, Repr

/-- The utilisation counts of a core (R181): `total` is the number of pipeline cycles it took. -/
structure Utilisation where
  fetch : Nat := 0
  decode : Nat := 0
  execute : Nat := 0
  memory : Nat := 0
  writeBack : Nat := 0
  total : Nat := 0
deriving DecidableEq, Repr

/-- Everything the spec gives core k, with the two arrays of the bus that are indexed by core, `bus.pend[k]` and
`bus.watch[k]` (R16). `watch` is sparse: see `Sparse.read` in Machine/Ops.lean; an address it does not list is NotWatched. -/
structure Core where
  regs : Vector Word 16
  pc : Word
  imem : List Word
  slots : Slots
  occExecute : Slot
  occMemory : Slot
  occWriteBack : Slot
  stalled : StageFlags
  stallNext : StageFlags
  dw : Option DeferredWrite
  hzCount : Nat
  hzHold : Bool
  branchTaken : Bool
  drained : Bool
  cache : Cache
  util : Utilisation
  pend : Option Request
  watch : List (Nat × Watch)
deriving DecidableEq, Repr

/-- The shared data memory, sparse: (word address, word) pairs, addresses strictly rising, no entry equal to 0, which is
what an unlisted address reads as: "all zero unless the host supplies an image" (R39). The unit is the word and there
are no bytes (R42, R43, log 8). -/
abbrev Memory := List (Nat × Word)

/-- Whose action is next in the sequence of R163 (log 2): the tick's start, the start of core k's pipeline cycle (R112), one
stage of core k's cycle, the memory tick, the bus tick with the memory tick's result. -/
inductive Turn where
  | tickStart
  | cycleStart (k : Nat)
  | stage (k : Nat) (st : Stage)
  | memory
  | bus (r : MemResult)
deriving DecidableEq, Repr

/-- The machine (R16). `cfg` holds the parameters of R9, which no step changes; `N_CORES` is the length of `cores`. -/
structure State where
  cfg : Config
  cores : List Core
  txn : Option Txn
  mem : Memory
  memop : Option MemOp
  memStaged : Word
  cycle : Nat
  turn : Turn
  events : List BusEvent
deriving DecidableEq, Repr

/-- What the run loop receives with an error, besides the error's own values (R173): the core, the value of `cycle`, and the
machine as the error left it: "Assignments made earlier in the same tick stand". -/
structure Stop where
  core : Nat
  cycle : Nat
  left : State
deriving DecidableEq, Repr

/-- The terminal errors of R167 that a running machine can raise. Each stops the whole machine (R173). -/
inductive Fault where
  /-- Code 2, raised by Decode on a corrupted record once its hazard wait has ended (R169). Safe: the spec's own stop. -/
  | registerRange (ipc : Word) (stop : Stop)
  /-- Code 3, raised by Decode when `rd` = 1 in a RegisterOp or MemoryOp (R169). Safe: the spec's own stop. -/
  | reg1Destination (ipc : Word) (stop : Stop)
  /-- Code 4, raised by Execute on a corrupted record (R169). Safe: the spec's own stop. -/
  | unrecognisedOpcode (ipc : Word) (stop : Stop)
  /-- Code 5, raised by Fetch when `pc` >= PROG_LEN (R170). Safe: the spec's own stop. -/
  | fetchFault (pc : Word) (stop : Stop)
  /-- Code 6, raised by the Memory stage when `addr` >= MEM_WORDS (R171). Safe: the spec's own stop. -/
  | addressFault (ipc addr : Word) (stop : Stop)
  /-- Code 7, raised by Execute for a shift amount, read as signed, below 0 or above 31 (R172). Safe: the spec's own stop. -/
  | shiftFault (ipc : Word) (amount : Int) (stop : Stop)
deriving DecidableEq, Repr

/-- Why a program does not pass the load-time check (R168): "every record in every `imem[k]` is legal, and that `PROG_LEN[k]` >= 1". -/
inductive LoadReason where
  | emptyProgram
  | illegalWord (e : Illegal)
deriving DecidableEq, Repr

/-- The steps the model does not take. -/
inductive Refusal where
  /-- Raised by `exec`'s arm of an instruction without a meaning. None is left. Safe. -/
  | notModelled (mnemonic : String)
  /-- Code 1, LoadFatal (R167, R168): core `core`'s program is rejected, for its word `index` or for being empty, so the machine is not
  started. Raised at the start of a tick, and by Fetch should it meet an illegal word. Safe: the spec's own refusal. -/
  | loadFatal (core index : Nat) (reason : LoadReason)
  /-- Raised by `exec` when no stage has the turn: there is then no stage for the instruction to be in. `step` never asks it
  (log 2). Safe. -/
  | noStageHasTheTurn
deriving DecidableEq, Repr

/-- The three outcomes of an action of the machine. -/
abbrev Result := Host.Outcome State Fault Refusal

/-- "A Bubble record has `op` = Bubble and no meaningful other field" (R25). -/
def Slot.bubble : Slot := { content := .bubble }

/-- "every slot holds one at reset" (R39, R110). -/
def Slots.bubbles : Slots := ⟨.bubble, .bubble, .bubble, .bubble, .bubble⟩

/-- An Invalid line; its tag and data are unspecified in R39 and 0 here (DESIGN CHOICE, log 6: no rule reads them). -/
def Line.invalid : Line := { state := .invalid, tag := 0, data := 0 }

/-- A core after reset with its program loaded (R39). -/
def Core.reset (c : Config) (program : List Word) : Core where
  regs := Vector.replicate 16 0
  pc := 0
  imem := program
  slots := .bubbles
  occExecute := .bubble
  occMemory := .bubble
  occWriteBack := .bubble
  stalled := {}
  stallNext := {}
  dw := none
  hzCount := 0
  hzHold := false
  branchTaken := false
  drained := false
  cache := { lines := List.replicate c.nLines .invalid }
  util := {}
  pend := none
  watch := []

/-- Reset with the parameters `c`, one program a core, and `MEM_INIT` given by `image` (R39, R185, R186). `memStaged` is unspecified
in R39 and 0 here (DESIGN CHOICE, log 6). -/
def State.boot (c : Config) (programs : List (List Word)) (image : Memory) : State where
  cfg := c
  cores := programs.map (Core.reset c)
  txn := none
  mem := image
  memop := none
  memStaged := 0
  cycle := 0
  turn := .tickStart
  events := []

/-- The machine right after reset (R39), with the reference parameters and one core (log 1), no program loaded (log 3) and a zero
memory. Until a program is loaded reset is not released (R168, R186): its step is refused. -/
def State.reset : State := State.boot Config.reference [[]] []

end Sys2Proof.Machine
end

