-- ==== Sys2Proof/Machine/Ops.lean ====
section
/-! DEFINITION. The named operations over the state: sparse tables (the data memory and the watch table), cores, slots, flags,
registers with their delayed write, and `raise`, the one way a machine without traps takes an error (R173, R176). -/

namespace Sys2Proof.Machine

/-! ## Sparse tables -/

/-- The value at key `a`: `d` where the table lists nothing. -/
def Sparse.read {α : Type} (d : α) : List (Nat × α) → Nat → α
  | [], _ => d
  | (b, v) :: t, a => if a = b then v else Sparse.read d t a

/-- Writes `v` at key `a` and keeps the canonical form: writing `d` removes the entry. -/
def Sparse.write {α : Type} [DecidableEq α] (d : α) : List (Nat × α) → Nat → α → List (Nat × α)
  | [], a, v => if v = d then [] else [(a, v)]
  | (b, w) :: t, a, v =>
    if a < b then (if v = d then (b, w) :: t else (a, v) :: (b, w) :: t)
    else if a = b then (if v = d then t else (a, v) :: t)
    else (b, w) :: Sparse.write d t a v

/-- The canonical form above a bound: keys strictly rising, no entry equal to `d`. -/
def Sparse.wfFrom {α : Type} [DecidableEq α] (d : α) : Nat → List (Nat × α) → Bool
  | _, [] => true
  | n, (b, v) :: t => decide (n ≤ b) && decide (v ≠ d) && Sparse.wfFrom d (b + 1) t

/-- The canonical form. -/
def Sparse.wf {α : Type} [DecidableEq α] (d : α) (t : List (Nat × α)) : Bool := Sparse.wfFrom d 0 t

/-- `mem[a]` (R35): an unlisted word is 0 (R39). -/
def Memory.read (m : Memory) (a : Nat) : Word := Sparse.read 0 m a

/-- `mem[a] <- v`. -/
def Memory.write (m : Memory) (a : Nat) (v : Word) : Memory := Sparse.write 0 m a v

/-- The memory's canonical form. -/
def Memory.wf (m : Memory) : Bool := Sparse.wf 0 m

/-- `bus.watch[k][a]` in core k's table (R34): an unlisted address is NotWatched. -/
def watchRead (t : List (Nat × Watch)) (a : Word) : Watch := Sparse.read .notWatched t a.toNat

/-- `bus.watch[k][a] <- w`. -/
def watchWrite (t : List (Nat × Watch)) (a : Word) (w : Watch) : List (Nat × Watch) :=
  Sparse.write .notWatched t a.toNat w

/-! ## Cores, slots and flags -/

/-- `N_CORES` (R9). -/
def State.nCores (s : State) : Nat := s.cores.length

/-- The constraints of R9 on the parameters of a machine: those of `Config.wf`, N_CORES >= 1, and PROG_LEN[k] >= 1 for every core. The
further "reachable branch targets < 2048" needs no check: a target that Fetch can reach is a non-negative 12-bit immediate. -/
def State.parametersOk (s : State) : Bool :=
  s.cfg.wf && decide (1 ≤ s.nCores) && s.cores.all fun c => decide (1 ≤ c.imem.length)

/-- Core k; past the last core, where the machine has none (R142), a core at reset that nothing can change. -/
def State.core (s : State) (k : Nat) : Core := s.cores.getD k (Core.reset s.cfg [])

/-- Replaces core k. -/
def State.setCore (s : State) (k : Nat) (c : Core) : State := { s with cores := s.cores.set k c }

/-- Applies a change to core k. -/
def State.modCore (s : State) (k : Nat) (f : Core → Core) : State := s.setCore k (f (s.core k))

/-- `slot[st]` (R24). -/
def Slots.get (x : Slots) : Stage → Slot
  | .fetch => x.fetch
  | .decode => x.decode
  | .execute => x.execute
  | .memory => x.memory
  | .writeBack => x.writeBack

/-- `slot[st] <- v`. -/
def Slots.set (x : Slots) (st : Stage) (v : Slot) : Slots :=
  match st with
  | .fetch => { x with fetch := v }
  | .decode => { x with decode := v }
  | .execute => { x with execute := v }
  | .memory => { x with memory := v }
  | .writeBack => { x with writeBack := v }

/-- The flag of stage `st` (R26). -/
def StageFlags.get (x : StageFlags) : Stage → Bool
  | .fetch => x.fetch
  | .decode => x.decode
  | .execute => x.execute
  | .memory => x.memory
  | .writeBack => x.writeBack

/-- `slot[k][st]`. -/
def State.slot (s : State) (k : Nat) (st : Stage) : Slot := (s.core k).slots.get st

/-- `slot[k][st] <- v`. -/
def State.setSlot (s : State) (k : Nat) (st : Stage) (v : Slot) : State :=
  s.modCore k fun c => { c with slots := c.slots.set st v }

/-- The stage that a processed record goes to (R24, R114); Write-back hands it to none. -/
def Stage.next : Stage → Stage
  | .fetch => .decode
  | .decode => .execute
  | .execute => .memory
  | .memory => .writeBack
  | .writeBack => .writeBack

/-- Stage `st` of core k hands the processed record `v` to the next stage (R114). -/
def State.pass (s : State) (k : Nat) (st : Stage) (v : Slot) : State := s.setSlot k st.next v

/-! ## Registers -/

/-- `x[k][r]` (R17). Register 0 and register 1 hold their reset value 0 because no write to them is ever recorded (R18, R19,
`recordWrite`). -/
def State.reg (s : State) (k : Nat) (r : Reg) : Word := (s.core k).regs[r.toNat]'r.isLt

/-- The deferred write applied to a core, first thing in Write-back (R128, R129). -/
def Core.applyDeferred (c : Core) : Core :=
  match c.dw with
  | none => c
  | some d => { c with regs := c.regs.set d.reg.toNat d.val d.reg.isLt, dw := none }

/-- "if dw.valid = 1: x[dw.reg] <- dw.val; dw.valid <- 0" (R128). -/
def State.applyDeferred (s : State) (k : Nat) : State := s.modCore k Core.applyDeferred

/-- Records the deferred write of `v` to `d`, but "if (d, v) is not none and d != 0 and d != 1" (R128): the one place a register
write is asked for, where registers 0 and 1 discard it (R18, R19). -/
def State.recordWrite (s : State) (k : Nat) (d : Reg) (v : Word) : State :=
  if d ≠ 0 ∧ d ≠ 1 then s.modCore k fun c => { c with dw := some { reg := d, val := v } } else s

/-! ## Freeze and unfreeze -/

/-- `Freeze()`, called by the Memory stage on a miss (R125). -/
def Core.freeze (c : Core) : Core :=
  { c with
    stallNext := { c.stallNext with writeBack := true }
    stalled := { c.stalled with memory := true, execute := true, decode := true, fetch := true } }

/-- `Unfreeze()` (R126). -/
def Core.unfreeze (c : Core) : Core := { c with stalled := {}, stallNext := {} }

/-- The promotion of `stall_next` at the start of a pipeline cycle (R112). -/
def Core.promoteStalls (c : Core) : Core :=
  { c with
    stalled :=
      { fetch := c.stalled.fetch || c.stallNext.fetch
        decode := c.stalled.decode || c.stallNext.decode
        execute := c.stalled.execute || c.stallNext.execute
        memory := c.stalled.memory || c.stallNext.memory
        writeBack := c.stalled.writeBack || c.stallNext.writeBack }
    stallNext := {} }

/-! ## Errors -/

/-- What a raise on core k reports, the machine standing as it is (R173). -/
def State.stop (s : State) (k : Nat) : Stop := { core := k, cycle := s.cycle, left := s }

/-- `raise E(info)` on core k (R12, R173): the machine stops. There is no trap to take: "No state is saved on an error, no mode
changes, no vector table or handler address exists" (R176). -/
def State.raise (s : State) (k : Nat) (e : Stop → Fault) : Result := .fault (e (s.stop k))

/-- Goes on with the next state; a stop stays the stop it is: "no later statement of that stage, no later stage of that pipeline
cycle, no later core, and no memory or bus tick of that global tick is executed" (R173). -/
def onNext (r : Result) (f : State → Result) : Result :=
  match r with
  | .next s => f s
  | .fault e => .fault e
  | .refused e => .refused e

end Sys2Proof.Machine
end

