-- ==== Sys2Proof/Machine/Cache.lean ====
section
/-! DEFINITION. The per-core direct-mapped MSI cache (51_cache.md). `ib` is INDEX_BITS throughout. -/

namespace Sys2Proof.Machine

/-- The index of `getIndexTag`: `address mod N_LINES` (R132). -/
def lineIndex (ib : Nat) (a : Word) : Nat := a.toNat % 2 ^ ib

/-- The tag of `getIndexTag`: `address div N_LINES` (R132). -/
def lineTag (ib : Nat) (a : Word) : Word := a >>> ib

/-- The inverse of the split: `tag * N_LINES + index` (R132). -/
def joinAddress (ib : Nat) (tag : Word) (index : Nat) : Nat := tag.toNat * 2 ^ ib + index

/-- The line that the address's index selects. -/
def Cache.line (c : Cache) (ib : Nat) (a : Word) : Line := c.lines.getD (lineIndex ib a) .invalid

/-- Replaces the line that the address's index selects. -/
def Cache.setLine (c : Cache) (ib : Nat) (a : Word) (l : Line) : Cache :=
  { c with lines := c.lines.set (lineIndex ib a) l }

/-- The selected line matches the address: not Invalid and of its tag (R133). -/
def Cache.hasCopy (c : Cache) (ib : Nat) (a : Word) : Bool :=
  decide ((c.line ib a).state ≠ .invalid) && decide ((c.line ib a).tag = lineTag ib a)

/-- `read(address)` (R134): `some d` is Hit(d), `none` is Miss. -/
def Cache.read (c : Cache) (ib : Nat) (a : Word) : Option Word × Cache :=
  if c.hasCopy ib a then (some (c.line ib a).data, { c with hits := c.hits + 1 })
  else (none, { c with misses := c.misses + 1 })

/-- The selected line is Modified and of the address's tag. -/
def Cache.owns (c : Cache) (ib : Nat) (a : Word) : Bool :=
  decide ((c.line ib a).state = .modified) && decide ((c.line ib a).tag = lineTag ib a)

/-- `write(address, data)` (R135): `true` is Success; a failed write changes nothing, no counter either (D17). -/
def Cache.write (c : Cache) (ib : Nat) (a : Word) (d : Word) : Bool × Cache :=
  if c.owns ib a then
    (true, { c.setLine ib a { c.line ib a with data := d } with hits := c.hits + 1 })
  else (false, c)

/-- `install(address, data, isWrite)` (R136): the line is overwritten whatever it held (D18). -/
def Cache.install (c : Cache) (ib : Nat) (a : Word) (d : Word) (isWrite : Bool) : Cache :=
  c.setLine ib a { state := if isWrite then .modified else .shared, tag := lineTag ib a, data := d }

/-- `getBits(address)` (R137): the state of the line that matches the address; `none` is NoCopy. -/
def Cache.getBits (c : Cache) (ib : Nat) (a : Word) : Option Msi :=
  if c.hasCopy ib a then some (c.line ib a).state else none

/-- `getData(address)` (R137), used only when `getBits` is not NoCopy. -/
def Cache.getData (c : Cache) (ib : Nat) (a : Word) : Word := (c.line ib a).data

/-- `setBits(address, state)` (R138): nothing when no line matches. -/
def Cache.setBits (c : Cache) (ib : Nat) (a : Word) (st : Msi) : Cache :=
  if c.hasCopy ib a then c.setLine ib a { c.line ib a with state := st } else c

/-- Applies a change to core k's cache. -/
def State.modCache (s : State) (k : Nat) (f : Cache → Cache) : State :=
  s.modCore k fun c => { c with cache := f c.cache }

/-- `cache[k].getBits(a)`. -/
def State.bits (s : State) (k : Nat) (a : Word) : Option Msi := (s.core k).cache.getBits s.cfg.indexBits a

/-- `cache[k].getData(a)`. -/
def State.lineData (s : State) (k : Nat) (a : Word) : Word := (s.core k).cache.getData s.cfg.indexBits a

end Sys2Proof.Machine
end

