-- ==== Sys2Proof/Machine/MemoryUnit.lean ====
section
/-! DEFINITION. The shared memory: one operation in flight, with a fixed latency (53_memory_unit.md R159 to R162). -/

namespace Sys2Proof.Machine

/-- Records an operation and starts its countdown; `false` is Busy, and changes nothing (R159). -/
def State.beginMemOp (s : State) (kind : MemOpKind) (a : Word) : Bool × State :=
  match s.memop with
  | some _ => (false, s)
  | none => (true, { s with memop := some { kind := kind, addr := a, remaining := s.cfg.memLatency } })

/-- `beginRead(a)` (R159). -/
def State.beginRead (s : State) (a : Word) : Bool × State := s.beginMemOp .read a

/-- `beginWrite(a, d)` (R159). -/
def State.beginWrite (s : State) (a d : Word) : Bool × State := s.beginMemOp (.write d) a

/-- `MemTick()` (R160). -/
def State.memTick (s : State) : MemResult × State :=
  match s.memop with
  | none => (.noOp, s)
  | some op =>
    if op.remaining - 1 > 0 then
      (.noOp, { s with memop := some { op with remaining := op.remaining - 1 } })
    else
      match op.kind with
      | .read => (.readCompleted, { s with memop := none, memStaged := s.mem.read op.addr.toNat })
      | .write d => (.writeCompleted, { s with memop := none, mem := s.mem.write op.addr.toNat d })

end Sys2Proof.Machine
end

