-- ==== Sys2Proof/Machine/Bus.lean ====
section
/-! DEFINITION. The coherence bus: requests, grants with their snoop, completion, the bus tick, and the watch table (52_bus.md). -/

namespace Sys2Proof.Machine

/-- `bus.busy` (R33). -/
def State.busBusy (s : State) : Bool := s.txn.isSome

/-- The cores other than k whose copy of `a` is in state `st`, in index order (the sets M and S of R145). -/
def State.otherHolders (s : State) (k : Nat) (a : Word) (st : Msi) : List Nat :=
  (List.range s.nCores).filter fun j => j ≠ k && s.bits j a = some st

/-- The path of a data source. -/
def Source.path : Source → Path
  | .memRead => .memRead
  | .flush _ => .flush
  | .cacheSupply _ => .cacheSupply

/-- Adds a bus event (R154). -/
def State.busEvent (s : State) (kind : BusEventKind) (t : Txn) : State :=
  { s with
    events := s.events ++ [{ kind := kind, tick := s.cycle, owner := t.owner, cmd := t.cmd, addr := t.addr, path := t.source.path }] }

/-- The memory read of a transaction of core k, counted in core k's cache (R146, R147, R153). -/
def State.fetchFromMemory (s : State) (k : Nat) (a : Word) : State :=
  (s.beginRead a).2.modCache k fun c => { c with memReads := c.memReads + 1 }

/-- The demotion of the Modified holder j, with the Flush of its data `d`, counted in its cache (R146, R149, R153). -/
def State.flushHolder (s : State) (j : Nat) (a d : Word) : State :=
  ((s.modCache j fun c => c.setBits s.cfg.indexBits a .shared).beginWrite a d).2.modCache j
    fun c => { c with memWrites := c.memWrites + 1 }

/-- `GrantBusRd` (R146): the Modified holder (at most one, R50; log 10), else the least Shared holder, else memory (R148). -/
def State.grantBusRd (s : State) (k : Nat) (a : Word) : Source × State :=
  match s.otherHolders k a .modified, s.otherHolders k a .shared with
  | j :: _, _ => (.flush (s.lineData j a), s.flushHolder j a (s.lineData j a))
  | [], j :: _ => (.cacheSupply (s.lineData j a), s)
  | [], [] => (.memRead, s.fetchFromMemory k a)

/-- Invalidates every other core's copy of `a` (R147); `setBits` does nothing where there is no copy (R138). -/
def State.invalidateOthers (s : State) (k : Nat) (a : Word) : State :=
  { s with
    cores := s.cores.mapIdx fun j c =>
      if j = k then c else { c with cache := c.cache.setBits s.cfg.indexBits a .invalid } }

/-- `GrantBusRdX` (R147): the data is read before the invalidation; a Modified copy's data goes to the requester, not to
memory. -/
def State.grantBusRdX (s : State) (k : Nat) (a : Word) : Source × State :=
  match s.otherHolders k a .modified, s.otherHolders k a .shared with
  | j :: _, _ => (.cacheSupply (s.lineData j a), s.invalidateOthers k a)
  | [], j :: _ => (.cacheSupply (s.lineData j a), s.invalidateOthers k a)
  | [], [] => (.memRead, (s.fetchFromMemory k a).invalidateOthers k a)

/-- The snoop and the data source of a request of core k. -/
def State.snoop (s : State) (k : Nat) (q : Request) : Source × State :=
  match q.cmd with
  | .busRd => s.grantBusRd k q.addr
  | .busRdX => s.grantBusRdX k q.addr

/-- `Grant(k)` (R145): starts the transaction of core k's pending request. -/
def State.grant (s : State) (k : Nat) : State :=
  match (s.core k).pend with
  | none => s
  | some q =>
    let t : Txn := { owner := k, cmd := q.cmd, addr := q.addr, source := (s.snoop k q).1 }
    { (s.snoop k q).2 with txn := some t }.busEvent .granted t

/-- `bus.pend[j]` is empty for every j other than k. -/
def State.noOtherPending (s : State) (k : Nat) : Bool :=
  (List.range s.nCores).all fun j => j = k || (s.core j).pend.isNone

/-- `BusRequest(k, cmd, a)` (R143): latched, and granted at once when the bus is idle and no other core waits. -/
def State.busRequest (s : State) (k : Nat) (cmd : BusCmd) (a : Word) : State :=
  let s1 := s.modCore k fun c => { c with pend := some { cmd := cmd, addr := a } }
  if !s1.busBusy && s1.noOtherPending k then s1.grant k else s1

/-- What completion does to the owner: the line installed, the request emptied, the stall flags cleared (R151, R126, R136). -/
def Core.serve (c : Core) (ib : Nat) (t : Txn) (d : Word) : Core :=
  { c.unfreeze with
    cache := c.cache.install ib t.addr d (decide (t.cmd = BusCmd.busRdX))
    pend := none }

/-- `Complete(t, d)` (R151): install, empty the request, unfreeze, free the bus. -/
def State.complete (s : State) (t : Txn) (d : Word) : State :=
  { s.modCore t.owner fun c => c.serve s.cfg.indexBits t d with txn := none }.busEvent .completed t

/-- The least core with a pending request. -/
def State.leastPending (s : State) : Option Nat :=
  (List.range s.nCores).find? fun j => (s.core j).pend.isSome

/-- `BusTick(r)` (R144): complete the transaction in flight or grant a waiting request, never both. -/
def State.busTick (s : State) (r : MemResult) : State :=
  match s.txn with
  | some t =>
    match t.source, r with
    | .cacheSupply d, _ => s.complete t d
    | .memRead, .readCompleted => s.complete t s.memStaged
    | .flush d, .writeCompleted => s.complete t d
    | _, _ => s
  | none =>
    match s.leastPending with
    | some j => s.grant j
    | none => s

/-! ## The watch table -/

/-- `watch[k][a]` (R155). -/
def State.watchOf (s : State) (k : Nat) (a : Word) : Watch := watchRead (s.core k).watch a

/-- `setWatch(k, a)` (R156). -/
def State.setWatch (s : State) (k : Nat) (a : Word) : State :=
  s.modCore k fun c => { c with watch := watchWrite c.watch a .watched }

/-- The answer of `checkAndConsume(k, a)`: it fails when core k's own entry is attributed to another core (R157). -/
def State.reservationHolds (s : State) (k : Nat) (a : Word) : Bool :=
  match s.watchOf k a with
  | .succeededFor j => decide (j = k)
  | .watched => true
  | .notWatched => true

/-- The side effect of `checkAndConsume(k, a)`, made whether or not it succeeds: every core's Watched entry for `a` becomes
SucceededFor(k) (R157). -/
def State.consumeWatches (s : State) (k : Nat) (a : Word) : State :=
  { s with
    cores := s.cores.map fun c =>
      if watchRead c.watch a = .watched then { c with watch := watchWrite c.watch a (.succeededFor k) } else c }

/-- `checkAndConsume(k, a)` (R157). -/
def State.checkAndConsume (s : State) (k : Nat) (a : Word) : Bool × State :=
  (s.reservationHolds k a, s.consumeWatches k a)

end Sys2Proof.Machine
end

