-- ==== Sys2Proof/Machine/Flags.lean ====
section
/-! DEFINITION. "There are no condition codes or status flags: branches compare two registers directly" (10_state.md R37). What other
machines compute as flags is here the condition of a branch (41_branch_jump.md R89 to R95). -/

namespace Sys2Proof.Machine

/-- The six conditions. -/
inductive Cond where
  | eq | ne | lt | gt | le | ge
deriving DecidableEq, Repr

/-- `cond(signed(A), signed(B))` (R89): BEQ (R90), BNE (R91), BLT (R92), BGT (R93), BLE (R94), BGE (R95). -/
def Cond.holds (c : Cond) (a b : Word) : Bool :=
  match c with
  | .eq => decide (a = b)
  | .ne => decide (a ≠ b)
  | .lt => decide (a.toInt < b.toInt)
  | .gt => decide (a.toInt > b.toInt)
  | .le => decide (a.toInt ≤ b.toInt)
  | .ge => decide (a.toInt ≥ b.toInt)

end Sys2Proof.Machine
end

