-- ==== Sys2Proof/Machine/Operands.lean ====
section
/-! DEFINITION. Operand forms (30_encoding.md R68), effective addresses (42_load_store.md R98), and the register sets of the hazard
check (50_pipeline.md R117, R118). -/

namespace Sys2Proof.Machine

/-- Operand B: the register `rt` when `isel` = 0, the immediate when `isel` = 1 (R25, R68). -/
inductive OperandB where
  | reg (rt : Reg)
  | imm (v : Imm)
deriving DecidableEq, Repr

/-- The value of operand B as Decode reads it (R116). -/
def OperandB.value (s : State) (k : Nat) : OperandB → Word
  | .reg rt => s.reg k rt
  | .imm v => sext12 v

/-- The effective address `x[rs] + x[rt]` modulo 2^32, from the operands read in Decode (R98). -/
def effectiveAddress (v : Slot) : Word := v.a + v.b

/-- The absolute target `sext_12(imm12)` of a branch or jump (R67, R89, R96). -/
def branchTarget (imm : Imm) : Word := sext12 imm

/-- The source registers checked for hazards, before registers 0 and 1 are removed (R117). -/
def sourceFields : Instr → List Reg
  | .add _ rs rt | .sub _ rs rt | .and _ rs rt | .or _ rs rt | .xor _ rs rt | .mul _ rs rt
  | .sll _ rs rt | .srl _ rs rt | .sra _ rs rt => [rs, rt]
  | .addImm _ rs _ | .subImm _ rs _ | .andImm _ rs _ | .orImm _ rs _ | .xorImm _ rs _ | .mulImm _ rs _
  | .sllImm _ rs _ | .srlImm _ rs _ | .sraImm _ rs _ => [rs]
  | .beq rs rt _ | .bne rs rt _ | .blt rs rt _ | .bgt rs rt _ | .ble rs rt _ | .bge rs rt _ => [rs, rt]
  | .jal _ _ => []
  | .lw _ rs rt | .ll _ rs rt => [rs, rt]
  | .sw rd rs rt | .sc rd rs rt => [rs, rt, rd]
  | .halt => []

/-- "Registers 0 and 1 are exempt from hazard stalling" (R117). -/
def sourceRegs (i : Instr) : List Reg := (sourceFields i).filter fun r => r ≠ 0 && r ≠ 1

/-- The source set of a record with an index over 15 (R117, R169): the indexes that its opcode's row of R117 names, which in every row are the first
none, one, two or three of `rs`, `rt`, `rd`. Registers 0 and 1 are removed, and so are the indexes over 15, which no instruction's destination can be. -/
def WideRecord.sources (w : WideRecord) : List Reg :=
  match w.op with
  | some i =>
    (([w.rs, w.rt, w.rd].take (sourceFields i).length).filter fun n => n ≤ 15 && n ≠ 0 && n ≠ 1).map (BitVec.ofNat 4)
  | none => []

/-- The sources of what Decode holds; a Bubble has none (R117), nor has a record without one of the opcodes, for which R117 has no row (log 4). -/
def Content.sources : Content → List Reg
  | .instr i => sourceRegs i
  | .bubble => []
  | .corrupt (.registerRange w) => w.sources
  | .corrupt .opcode => []

/-- The register an instruction will write, `dest` (R118). -/
def destReg : Instr → Option Reg
  | .add rd _ _ | .sub rd _ _ | .and rd _ _ | .or rd _ _ | .xor rd _ _ | .mul rd _ _
  | .sll rd _ _ | .srl rd _ _ | .sra rd _ _ => some rd
  | .addImm rd _ _ | .subImm rd _ _ | .andImm rd _ _ | .orImm rd _ _ | .xorImm rd _ _ | .mulImm rd _ _
  | .sllImm rd _ _ | .srlImm rd _ _ | .sraImm rd _ _ => some rd
  | .lw rd _ _ | .ll rd _ _ | .sc rd _ _ => some rd
  | .jal _ _ => some linkReg
  | .beq _ _ _ | .bne _ _ _ | .blt _ _ _ | .bgt _ _ _ | .ble _ _ _ | .bge _ _ _ => none
  | .sw _ _ _ => none
  | .halt => none

/-- `dest(p)` of an occupant (R118). A corrupted record is none: it stops the machine before an instruction behind it meets it there (log 4). -/
def Content.dest : Content → Option Reg
  | .instr i => destReg i
  | .bubble => none
  | .corrupt _ => none

/-- `p` will write a register of the set `rs`. -/
def Content.writesOneOf (p : Content) (rs : List Reg) : Bool :=
  match p.dest with
  | some d => rs.contains d
  | none => false

end Sys2Proof.Machine
end

