-- ==== Sys2Proof/Machine/Stages.lean ====
section
/-! DEFINITION. The shared operations the meanings are made of: what an instruction does in each stage, around its own function
(50_pipeline.md R115, R116, R123, R124, R128; 40_alu.md R77; 42_load_store.md R99, R100). The rest of a pipeline cycle, which does
not depend on the instruction, is in Machine/Tick.lean. -/

namespace Sys2Proof.Machine

/-- What an instruction does in one stage of core k. -/
abbrev StageAction := Nat → State → Result

/-- The stage that has the turn selects what the instruction does (R14, R112). -/
def inStage (s : State) (fetch decode execute memory writeBack : StageAction) : Result :=
  match s.turn with
  | .stage k .fetch => fetch k s
  | .stage k .decode => decode k s
  | .stage k .execute => execute k s
  | .stage k .memory => memory k s
  | .stage k .writeBack => writeBack k s
  | .tickStart => .refused .noStageHasTheTurn
  | .cycleStart _ => .refused .noStageHasTheTurn
  | .memory => .refused .noStageHasTheTurn
  | .bus _ => .refused .noStageHasTheTurn

/-! ## Fetch -/

/-- The record Fetch makes of an instruction: "r <- imem[pc] with ipc <- pc" (R115). -/
def freshSlot (i : Instr) (pc : Word) : Slot := { content := .instr i, ipc := pc }

/-- Fetch of an instruction: the record enters `slot[F]` and `slot[D]`; `pc` moves on by `advance`, and the fetch is counted (R115,
R181). -/
def fetchInstr (i : Instr) (advance : Word) : StageAction := fun k s =>
  .next (s.modCore k fun c =>
    { c with
      slots := { c.slots with fetch := freshSlot i c.pc, decode := freshSlot i c.pc }
      pc := c.pc + advance
      util := { c.util with fetch := c.util.fetch + 1 } })

/-! ## Decode -/

/-- The operands read in Decode (R116): "All three register reads happen for every instruction"; the store data for SW and SC is a
fourth field. -/
def readOperands (s : State) (k : Nat) (rs : Reg) (b : OperandB) : Slot :=
  { s.slot k .decode with a := s.reg k rs, b := b.value s k }

/-- Decode's defensive check of a RegisterOp or MemoryOp, "and i.rd = 1: raise RuntimeFatal(reg1_destination)" (R116, R169). -/
def checkingDest (rd : Reg) (rest : StageAction) : StageAction := fun k s =>
  if rd = 1 then s.raise k (.reg1Destination (s.slot k .decode).ipc) else rest k s

/-- Decode of a RegisterOp, LW or LL (R77, R101, R103). -/
def decodeOperands (rd rs : Reg) (b : OperandB) : StageAction :=
  checkingDest rd fun k s => .next (s.pass k .decode (readOperands s k rs b))

/-- Decode of SW or SC, which reads the data register `rd` too (R102, R104). -/
def decodeStore (rd rs rt : Reg) : StageAction :=
  checkingDest rd fun k s =>
    .next (s.pass k .decode { readOperands s k rs (.reg rt) with sdata := s.reg k rd })

/-- `pc <- target; branch_taken <- 1` (R89, R96). -/
def State.redirect (s : State) (k : Nat) (target : Word) : State :=
  s.modCore k fun c => { c with pc := target, branchTaken := true }

/-- Decode of a conditional branch (R89, R116). -/
def decodeBranch (cond : Cond) (rs rt : Reg) (imm : Imm) : StageAction := fun k s =>
  .next ((if cond.holds (s.reg k rs) (s.reg k rt) then s.redirect k (branchTarget imm) else s).pass k .decode
    (readOperands s k rs (.reg rt)))

/-- Decode of JAL (R96): the return address is the JAL's own index plus 1 (D7). It reads no register of consequence: the unused
fields `rs` and `rt` of its record are 0 (R61, R116). -/
def decodeJal (imm : Imm) : StageAction := fun k s =>
  .next ((s.redirect k (branchTarget imm)).pass k .decode
    { readOperands s k 0 (.reg 0) with ret := (s.slot k .decode).ipc + 1 })

/-- A stage in which the instruction does nothing: the record moves on unchanged (R89, R96, R109, R123, R124). -/
def passOn (st : Stage) : StageAction := fun k s => .next (s.pass k st (s.slot k st))

/-! ## Execute -/

/-- Execute of a RegisterOp that cannot raise: `result <- f(A, B)` (R77, R123). -/
def executeAlu (f : Word → Word → Word) : StageAction := fun k s =>
  .next (s.pass k .execute { s.slot k .execute with result := f (s.slot k .execute).a (s.slot k .execute).b })

/-- Execute of a shift: the amount is operand B read as signed; below 0 or above 31 it raises ShiftFault and is not masked (R85,
R172). -/
def executeShift (f : Word → Nat → Word) : StageAction := fun k s =>
  let v := s.slot k .execute
  if v.b.toInt < 0 ∨ v.b.toInt > 31 then s.raise k (.shiftFault v.ipc v.b.toInt)
  else .next (s.pass k .execute { v with result := f v.a v.b.toInt.toNat })

/-- Execute of LW or SW: `addr <- A + B` (R98, R123). -/
def executeAddress : StageAction := fun k s =>
  .next (s.pass k .execute { s.slot k .execute with addr := effectiveAddress (s.slot k .execute) })

/-- Execute of LL: the address, and the watch on it (R103, R123). -/
def executeLoadLinked : StageAction := fun k s =>
  let ea := effectiveAddress (s.slot k .execute)
  .next ((s.setWatch k ea).pass k .execute { s.slot k .execute with addr := ea })

/-- Execute of SC: the address, and the outcome, decided here and never revised (R104, R123). -/
def executeStoreConditional : StageAction := fun k s =>
  let v := s.slot k .execute
  let ea := effectiveAddress v
  let ok := (s.checkAndConsume k ea).1
  .next ((s.checkAndConsume k ea).2.pass k .execute { v with addr := ea, scOk := ok, result := if ok then 1 else 0 })

/-! ## Memory -/

/-- The freeze of a miss and the request for the line (R124, R125): the instruction stays in the Memory stage. -/
def State.miss (s : State) (k : Nat) (cmd : BusCmd) (a : Word) : State :=
  (s.modCore k Core.freeze).busRequest k cmd a

/-- "if addr >= MEM_WORDS: raise AddressFault(addr)", before the cache is consulted and on every attempt (R99, R100, R171). -/
def checkingAddress (rest : StageAction) : StageAction := fun k s =>
  let v := s.slot k .memory
  if v.addr.toNat ≥ s.cfg.memWords then s.raise k (.addressFault v.ipc v.addr) else rest k s

/-- `ldata <- MemRead(addr, 1)` of LW and LL (R99, R124). -/
def memoryLoad : StageAction :=
  checkingAddress fun k s =>
    let v := s.slot k .memory
    let r := (s.core k).cache.read s.cfg.indexBits v.addr
    let s1 := s.modCache k fun _ => r.2
    match r.1 with
    | some d => .next (s1.pass k .memory { v with ldata := d })
    | none => .next (s1.miss k .busRd v.addr)

/-- `MemWrite(addr, 1, sdata)` of SW and of an SC that was not suppressed (R100, R124). -/
def memoryStore : StageAction :=
  checkingAddress fun k s =>
    let v := s.slot k .memory
    let r := (s.core k).cache.write s.cfg.indexBits v.addr v.sdata
    let s1 := s.modCache k fun _ => r.2
    if r.1 then .next (s1.pass k .memory v) else .next (s1.miss k .busRdX v.addr)

/-- Memory of SC: a suppressed one makes no access, no request, no count and no fault (R104, R124). -/
def memoryStoreConditional : StageAction := fun k s =>
  if (s.slot k .memory).scOk then memoryStore k s else passOn .memory k s

/-! ## Write-back -/

/-- Write-back of an instruction with a destination: the write is recorded, for the core's next Write-back to apply (R128, R129). -/
def writeBackReg (d : Reg) (value : Slot → Word) : StageAction := fun k s =>
  .next (s.recordWrite k d (value (s.slot k .writeBack)))

/-- Write-back of an instruction that writes no register (R128). -/
def writeBackNothing : StageAction := fun _ s => .next s

/-- Write-back of HALT: `drained <- 1` (R109, R128). -/
def writeBackHalt : StageAction := fun k s => .next (s.modCore k fun c => { c with drained := true })

end Sys2Proof.Machine
end

