-- ==== Sys2Proof/Machine/Alu.lean ====
section
/-! DEFINITION. The six RegisterOp instructions that are not shifts, each in format R and in format RI (40_alu.md R77 to R84). -/

namespace Sys2Proof.Machine

/-- The function of ADD: `f(A, B) = A + B` modulo 2^32 (R79). -/
def addFn (a b : Word) : Word := a + b

/-- The function of SUB: `f(A, B) = A - B` modulo 2^32 (R80). -/
def subFn (a b : Word) : Word := a - b

/-- The function of AND: `f(A, B) = A AND B` bitwise (R81). -/
def andFn (a b : Word) : Word := a &&& b

/-- The function of OR: `f(A, B) = A OR B` bitwise (R82). -/
def orFn (a b : Word) : Word := a ||| b

/-- The function of XOR: `f(A, B) = A XOR B` bitwise (R83). -/
def xorFn (a b : Word) : Word := a ^^^ b

/-- The function of MUL: `f(A, B) = the low 32 bits of A * B` (R84). -/
def mulFn (a b : Word) : Word := a * b

/-- ADD, format R (R79, R77). -/
def execAdd (rd rs rt : Reg) (s : State) : Result :=
  inStage s (fetchInstr (.add rd rs rt) 1) (decodeOperands rd rs (.reg rt)) (executeAlu addFn) (passOn .memory)
    (writeBackReg rd Slot.result)

/-- ADD, format RI: operand B is the sign-extended immediate (R79, R77). -/
def execAddImm (rd rs : Reg) (imm : Imm) (s : State) : Result :=
  inStage s (fetchInstr (.addImm rd rs imm) 1) (decodeOperands rd rs (.imm imm)) (executeAlu addFn) (passOn .memory)
    (writeBackReg rd Slot.result)

/-- SUB, format R (R80, R77). -/
def execSub (rd rs rt : Reg) (s : State) : Result :=
  inStage s (fetchInstr (.sub rd rs rt) 1) (decodeOperands rd rs (.reg rt)) (executeAlu subFn) (passOn .memory)
    (writeBackReg rd Slot.result)

/-- SUB, format RI: operand B is the sign-extended immediate (R80, R77). -/
def execSubImm (rd rs : Reg) (imm : Imm) (s : State) : Result :=
  inStage s (fetchInstr (.subImm rd rs imm) 1) (decodeOperands rd rs (.imm imm)) (executeAlu subFn) (passOn .memory)
    (writeBackReg rd Slot.result)

/-- AND, format R (R81, R77). -/
def execAnd (rd rs rt : Reg) (s : State) : Result :=
  inStage s (fetchInstr (.and rd rs rt) 1) (decodeOperands rd rs (.reg rt)) (executeAlu andFn) (passOn .memory)
    (writeBackReg rd Slot.result)

/-- AND, format RI: operand B is the sign-extended immediate (R81, R77). -/
def execAndImm (rd rs : Reg) (imm : Imm) (s : State) : Result :=
  inStage s (fetchInstr (.andImm rd rs imm) 1) (decodeOperands rd rs (.imm imm)) (executeAlu andFn) (passOn .memory)
    (writeBackReg rd Slot.result)

/-- OR, format R (R82, R77). -/
def execOr (rd rs rt : Reg) (s : State) : Result :=
  inStage s (fetchInstr (.or rd rs rt) 1) (decodeOperands rd rs (.reg rt)) (executeAlu orFn) (passOn .memory)
    (writeBackReg rd Slot.result)

/-- OR, format RI: operand B is the sign-extended immediate (R82, R77). -/
def execOrImm (rd rs : Reg) (imm : Imm) (s : State) : Result :=
  inStage s (fetchInstr (.orImm rd rs imm) 1) (decodeOperands rd rs (.imm imm)) (executeAlu orFn) (passOn .memory)
    (writeBackReg rd Slot.result)

/-- XOR, format R (R83, R77). -/
def execXor (rd rs rt : Reg) (s : State) : Result :=
  inStage s (fetchInstr (.xor rd rs rt) 1) (decodeOperands rd rs (.reg rt)) (executeAlu xorFn) (passOn .memory)
    (writeBackReg rd Slot.result)

/-- XOR, format RI: operand B is the sign-extended immediate (R83, R77). -/
def execXorImm (rd rs : Reg) (imm : Imm) (s : State) : Result :=
  inStage s (fetchInstr (.xorImm rd rs imm) 1) (decodeOperands rd rs (.imm imm)) (executeAlu xorFn) (passOn .memory)
    (writeBackReg rd Slot.result)

/-- MUL, format R (R84, R77). -/
def execMul (rd rs rt : Reg) (s : State) : Result :=
  inStage s (fetchInstr (.mul rd rs rt) 1) (decodeOperands rd rs (.reg rt)) (executeAlu mulFn) (passOn .memory)
    (writeBackReg rd Slot.result)

/-- MUL, format RI: operand B is the sign-extended immediate (R84, R77). -/
def execMulImm (rd rs : Reg) (imm : Imm) (s : State) : Result :=
  inStage s (fetchInstr (.mulImm rd rs imm) 1) (decodeOperands rd rs (.imm imm)) (executeAlu mulFn) (passOn .memory)
    (writeBackReg rd Slot.result)

end Sys2Proof.Machine
end

