-- ==== Sys2Proof/Machine/Branch.lean ====
section
/-! DEFINITION. The six conditional branches and JAL (41_branch_jump.md). All resolve in Decode. -/

namespace Sys2Proof.Machine

/-- BEQ: taken when `A = B` (R90, R89). -/
def execBeq (rs rt : Reg) (imm : Imm) (s : State) : Result :=
  inStage s (fetchInstr (.beq rs rt imm) 1) (decodeBranch .eq rs rt imm) (passOn .execute) (passOn .memory) writeBackNothing

/-- BNE: taken when `A != B` (R91, R89). -/
def execBne (rs rt : Reg) (imm : Imm) (s : State) : Result :=
  inStage s (fetchInstr (.bne rs rt imm) 1) (decodeBranch .ne rs rt imm) (passOn .execute) (passOn .memory) writeBackNothing

/-- BLT: taken when `signed(A) < signed(B)` (R92, R89). -/
def execBlt (rs rt : Reg) (imm : Imm) (s : State) : Result :=
  inStage s (fetchInstr (.blt rs rt imm) 1) (decodeBranch .lt rs rt imm) (passOn .execute) (passOn .memory) writeBackNothing

/-- BGT: taken when `signed(A) > signed(B)` (R93, R89). -/
def execBgt (rs rt : Reg) (imm : Imm) (s : State) : Result :=
  inStage s (fetchInstr (.bgt rs rt imm) 1) (decodeBranch .gt rs rt imm) (passOn .execute) (passOn .memory) writeBackNothing

/-- BLE: taken when `signed(A) <= signed(B)` (R94, R89). -/
def execBle (rs rt : Reg) (imm : Imm) (s : State) : Result :=
  inStage s (fetchInstr (.ble rs rt imm) 1) (decodeBranch .le rs rt imm) (passOn .execute) (passOn .memory) writeBackNothing

/-- BGE: taken when `signed(A) >= signed(B)` (R95, R89). -/
def execBge (rs rt : Reg) (imm : Imm) (s : State) : Result :=
  inStage s (fetchInstr (.bge rs rt imm) 1) (decodeBranch .ge rs rt imm) (passOn .execute) (passOn .memory) writeBackNothing

/-- JAL: "unconditional jump to immediate target, link return address into register 15", whatever `rd` holds (R96). -/
def execJal (rd : Reg) (imm : Imm) (s : State) : Result :=
  inStage s (fetchInstr (.jal rd imm) 1) (decodeJal imm) (passOn .execute) (passOn .memory) (writeBackReg linkReg Slot.ret)

end Sys2Proof.Machine
end

