-- ==== Sys2Proof/Machine/Halt.lean ====
section
/-! DEFINITION. HALT (44_halt_bubble.md R109). -/

namespace Sys2Proof.Machine

/-- HALT: Fetch does not advance `pc`; Decode, Execute and Memory do nothing; Write-back sets `drained` (R109). -/
def execHalt (s : State) : Result :=
  inStage s (fetchInstr .halt 0) (passOn .decode) (passOn .execute) (passOn .memory) writeBackHalt

end Sys2Proof.Machine
end

