-- ==== Sys2Proof/Machine/LoadStore.lean ====
section
/-! DEFINITION. Load and store (42_load_store.md R98 to R102), load-linked and store-conditional (43_llsc.md R103 to R105). -/

namespace Sys2Proof.Machine

/-- LW: load word at rs+rt (R101). -/
def execLw (rd rs rt : Reg) (s : State) : Result :=
  inStage s (fetchInstr (.lw rd rs rt) 1) (decodeOperands rd rs (.reg rt)) executeAddress memoryLoad
    (writeBackReg rd Slot.ldata)

/-- SW: store word at rs+rt; `rd` names the data register, which is read (R102). -/
def execSw (rd rs rt : Reg) (s : State) : Result :=
  inStage s (fetchInstr (.sw rd rs rt) 1) (decodeStore rd rs rt) executeAddress memoryStore writeBackNothing

/-- LL: "a load that also registers a watch" (R103). -/
def execLl (rd rs rt : Reg) (s : State) : Result :=
  inStage s (fetchInstr (.ll rd rs rt) 1) (decodeOperands rd rs (.reg rt)) executeLoadLinked memoryLoad
    (writeBackReg rd Slot.ldata)

/-- SC: `rd` names the data register and receives the outcome (R104). -/
def execSc (rd rs rt : Reg) (s : State) : Result :=
  inStage s (fetchInstr (.sc rd rs rt) 1) (decodeStore rd rs rt) executeStoreConditional memoryStoreConditional
    (writeBackReg rd Slot.result)

end Sys2Proof.Machine
end

