-- ==== Sys2Proof/Machine/Shift.lean ====
section
/-! DEFINITION. The three shifts, each in format R and in format RI (40_alu.md R77, R85 to R88). An amount outside 0 .. 31 raises ShiftFault
in Execute (R172). -/

namespace Sys2Proof.Machine

/-- The function of SLL for 0 <= n <= 31: `(A << n)` modulo 2^32 (R86). -/
def sllFn (a : Word) (n : Nat) : Word := a <<< n

/-- The function of SRL for 0 <= n <= 31: `A div 2^n` on the unsigned reading (R87). -/
def srlFn (a : Word) (n : Nat) : Word := a >>> n

/-- The function of SRA for 0 <= n <= 31: `floor(signed(A) / 2^n)`: copies of bit 31 enter at the top (R88). -/
def sraFn (a : Word) (n : Nat) : Word := a.sshiftRight n

/-- SLL, format R (R86, R77). -/
def execSll (rd rs rt : Reg) (s : State) : Result :=
  inStage s (fetchInstr (.sll rd rs rt) 1) (decodeOperands rd rs (.reg rt)) (executeShift sllFn) (passOn .memory)
    (writeBackReg rd Slot.result)

/-- SLL, format RI: the amount is the sign-extended immediate (R86, R77, R85). -/
def execSllImm (rd rs : Reg) (imm : Imm) (s : State) : Result :=
  inStage s (fetchInstr (.sllImm rd rs imm) 1) (decodeOperands rd rs (.imm imm)) (executeShift sllFn) (passOn .memory)
    (writeBackReg rd Slot.result)

/-- SRL, format R (R87, R77). -/
def execSrl (rd rs rt : Reg) (s : State) : Result :=
  inStage s (fetchInstr (.srl rd rs rt) 1) (decodeOperands rd rs (.reg rt)) (executeShift srlFn) (passOn .memory)
    (writeBackReg rd Slot.result)

/-- SRL, format RI: the amount is the sign-extended immediate (R87, R77, R85). -/
def execSrlImm (rd rs : Reg) (imm : Imm) (s : State) : Result :=
  inStage s (fetchInstr (.srlImm rd rs imm) 1) (decodeOperands rd rs (.imm imm)) (executeShift srlFn) (passOn .memory)
    (writeBackReg rd Slot.result)

/-- SRA, format R (R88, R77). -/
def execSra (rd rs rt : Reg) (s : State) : Result :=
  inStage s (fetchInstr (.sra rd rs rt) 1) (decodeOperands rd rs (.reg rt)) (executeShift sraFn) (passOn .memory)
    (writeBackReg rd Slot.result)

/-- SRA, format RI: the amount is the sign-extended immediate (R88, R77, R85). -/
def execSraImm (rd rs : Reg) (imm : Imm) (s : State) : Result :=
  inStage s (fetchInstr (.sraImm rd rs imm) 1) (decodeOperands rd rs (.imm imm)) (executeShift sraFn) (passOn .memory)
    (writeBackReg rd Slot.result)

end Sys2Proof.Machine
end

