-- ==== Sys2Proof/Machine/Dispatch.lean ====
section
/-! DEFINITION. What each instruction does in the stage that has the turn: one arm a constructor, one meaning an arm. -/

namespace Sys2Proof.Machine

/-- The instruction's action in the stage that has the turn (44_halt_bubble.md R111: these are all there are). -/
def exec (i : Instr) (s : State) : Host.Outcome State Fault Refusal :=
  match i with
  | .add rd rs rt => Sys2Proof.Machine.execAdd rd rs rt s
  | .addImm rd rs imm => Sys2Proof.Machine.execAddImm rd rs imm s
  | .sub rd rs rt => Sys2Proof.Machine.execSub rd rs rt s
  | .subImm rd rs imm => Sys2Proof.Machine.execSubImm rd rs imm s
  | .and rd rs rt => Sys2Proof.Machine.execAnd rd rs rt s
  | .andImm rd rs imm => Sys2Proof.Machine.execAndImm rd rs imm s
  | .or rd rs rt => Sys2Proof.Machine.execOr rd rs rt s
  | .orImm rd rs imm => Sys2Proof.Machine.execOrImm rd rs imm s
  | .xor rd rs rt => Sys2Proof.Machine.execXor rd rs rt s
  | .xorImm rd rs imm => Sys2Proof.Machine.execXorImm rd rs imm s
  | .mul rd rs rt => Sys2Proof.Machine.execMul rd rs rt s
  | .mulImm rd rs imm => Sys2Proof.Machine.execMulImm rd rs imm s
  | .sll rd rs rt => Sys2Proof.Machine.execSll rd rs rt s
  | .sllImm rd rs imm => Sys2Proof.Machine.execSllImm rd rs imm s
  | .srl rd rs rt => Sys2Proof.Machine.execSrl rd rs rt s
  | .srlImm rd rs imm => Sys2Proof.Machine.execSrlImm rd rs imm s
  | .sra rd rs rt => Sys2Proof.Machine.execSra rd rs rt s
  | .sraImm rd rs imm => Sys2Proof.Machine.execSraImm rd rs imm s
  | .beq rs rt imm => Sys2Proof.Machine.execBeq rs rt imm s
  | .bne rs rt imm => Sys2Proof.Machine.execBne rs rt imm s
  | .blt rs rt imm => Sys2Proof.Machine.execBlt rs rt imm s
  | .bgt rs rt imm => Sys2Proof.Machine.execBgt rs rt imm s
  | .ble rs rt imm => Sys2Proof.Machine.execBle rs rt imm s
  | .bge rs rt imm => Sys2Proof.Machine.execBge rs rt imm s
  | .jal rd imm => Sys2Proof.Machine.execJal rd imm s
  | .lw rd rs rt => Sys2Proof.Machine.execLw rd rs rt s
  | .sw rd rs rt => Sys2Proof.Machine.execSw rd rs rt s
  | .ll rd rs rt => Sys2Proof.Machine.execLl rd rs rt s
  | .sc rd rs rt => Sys2Proof.Machine.execSc rd rs rt s
  | .halt => Sys2Proof.Machine.execHalt s

end Sys2Proof.Machine
end

