-- ==== Sys2Proof/Machine/Tick.lean ====
section
/-! DEFINITION. The actions of the machine, one a step (log 2): the start of a tick, the start of a core's pipeline cycle, one stage of
one core, the memory tick, the bus tick (53_memory_unit.md R163, 50_pipeline.md R112). `globalTick` is R163 whole, written from its
pseudocode over the same actions. -/

namespace Sys2Proof.Machine

/-! ## The start of a pipeline cycle -/

/-- 1 for a slot that holds a non-bubble (R181). -/
def Slot.busy (v : Slot) : Nat := if v.content = .bubble then 0 else 1

/-- The utilisation counts of a cycle, from its occupants; frozen cycles count (R181). Fetch counts when it fetches. -/
def Core.countCycle (c : Core) : Utilisation :=
  { c.util with
    decode := c.util.decode + c.slots.decode.busy
    execute := c.util.execute + c.slots.execute.busy
    memory := c.util.memory + c.slots.memory.busy
    writeBack := c.util.writeBack + c.slots.writeBack.busy
    total := c.util.total + 1 }

/-- What a pipeline cycle does before its first stage: the promotion of delayed stalls and the occupants of E, M and W (R112, R113). -/
def Core.beginCycle (c : Core) : Core :=
  { c.promoteStalls with
    occExecute := c.slots.execute
    occMemory := c.slots.memory
    occWriteBack := c.slots.writeBack
    util := c.countCycle }

/-! ## The stages -/

/-- Write-back: the pending deferred write is applied, then the occupant acts (R128). -/
def writeBackStage (k : Nat) (s : State) : Result :=
  if (s.core k).stalled.writeBack then .next s
  else
    match (s.slot k .writeBack).content with
    | .instr i => exec i (s.applyDeferred k)
    | .bubble => .next (s.applyDeferred k)
    | .corrupt _ => .next (s.applyDeferred k)

/-- Memory (R124). "Non-memory instructions pass through untouched." -/
def memoryStage (k : Nat) (s : State) : Result :=
  if (s.core k).stalled.memory then .next s
  else
    match (s.slot k .memory).content with
    | .instr i => exec i s
    | .bubble => passOn .memory k s
    | .corrupt _ => passOn .memory k s

/-- Execute (R123): "anything else: raise RuntimeFatal(unrecognised_opcode)". -/
def executeStage (k : Nat) (s : State) : Result :=
  if (s.core k).stalled.execute then .next s
  else
    match (s.slot k .execute).content with
    | .instr i => exec i s
    | .bubble => passOn .execute k s
    | .corrupt _ => s.raise k (.unrecognisedOpcode (s.slot k .execute).ipc)

/-- `Hazard(i)` (R119): the nearest stage whose occupant writes a register of the source set. -/
def Core.hazard (c : Core) : Nat :=
  if c.occExecute.content.writesOneOf c.slots.decode.content.sources then 3
  else if c.occMemory.content.writesOneOf c.slots.decode.content.sources then 2
  else if c.occWriteBack.content.writesOneOf c.slots.decode.content.sources then 1
  else 0

/-- `hz_count` after Decode's check: "if hz_count = 0: hz_count <- Hazard(i)" (R116). -/
def Core.stallLength (c : Core) : Nat := if c.hzCount = 0 then c.hazard else c.hzCount

/-- A cycle of the hazard stall: "slot[E] <- Bubble; hz_count <- hz_count - 1; hz_hold <- 1" (R116, R120). -/
def Core.holdDecode (c : Core) : Core :=
  { c with slots := { c.slots with execute := .bubble }, hzCount := c.stallLength - 1, hzHold := true }

/-- Decode's instruction is free to go: the count is 0 and "hz_hold <- 0" (R116). -/
def Core.releaseDecode (c : Core) : Core := { c with hzCount := 0, hzHold := false }

/-- Decode (R116): the hazard check, then what the instruction does there; an illegal record "raises only when the wait ends" (R169). A record with an index over 15 and `rd` = 1 is reported for the index (DESIGN CHOICE, log 4). -/
def decodeStage (k : Nat) (s : State) : Result :=
  if (s.core k).stalled.decode then .next s
  else if (s.core k).stallLength > 0 then .next (s.modCore k Core.holdDecode)
  else
    match (s.slot k .decode).content with
    | .instr i => exec i (s.modCore k Core.releaseDecode)
    | .bubble => passOn .decode k (s.modCore k Core.releaseDecode)
    | .corrupt .opcode => passOn .decode k (s.modCore k Core.releaseDecode)
    | .corrupt (.registerRange _) =>
      (s.modCore k Core.releaseDecode).raise k (.registerRange (s.slot k .decode).ipc)

/-- The branch flush: "slot[F] <- Bubble; slot[D] <- Bubble; branch_taken <- 0" (R115, R122). -/
def Core.flushFetch (c : Core) : Core :=
  { c with slots := { c.slots with fetch := .bubble, decode := .bubble }, branchTaken := false }

/-- The instruction at `pc`: `none` past the program's end (R115). -/
def Core.wordAtPc (c : Core) : Option Word := c.imem[c.pc.toNat]?

/-- Fetch (R115). A word is decoded here into the record the loader would have made of it (R71, log 3). -/
def fetchStage (k : Nat) (s : State) : Result :=
  if (s.core k).stalled.fetch then .next s
  else if (s.core k).hzHold then .next s
  else if (s.core k).branchTaken then .next (s.modCore k Core.flushFetch)
  else
    match (s.core k).wordAtPc with
    | none => s.raise k (.fetchFault (s.core k).pc)
    | some w =>
      match decodeWord w with
      | .ok i => exec i s
      | .error e => .refused (.loadFatal k (s.core k).pc.toNat (.illegalWord e))

/-- Stage `st` of core k's pipeline cycle. -/
def stageAction (k : Nat) (st : Stage) (s : State) : Result :=
  match st with
  | .writeBack => writeBackStage k s
  | .memory => memoryStage k s
  | .execute => executeStage k s
  | .decode => decodeStage k s
  | .fetch => fetchStage k s

/-! ## The order of the actions -/

/-- Gives the turn to `t`. -/
def State.give (s : State) (t : Turn) : State := { s with turn := t }

/-- The turn after a stage of core k: "executed in reverse order each tick (Write-back, Memory, Execute, Decode, Fetch)" (R112), then
the next core (R163). -/
def Stage.turnAfter (k : Nat) : Stage → Turn
  | .writeBack => .stage k .memory
  | .memory => .stage k .execute
  | .execute => .stage k .decode
  | .decode => .stage k .fetch
  | .fetch => .cycleStart (k + 1)

/-- Every core has drained: the run has ended (R164). -/
def State.allDrained (s : State) : Bool := s.cores.all Core.drained

/-- The first illegal word of a program, from word n on. -/
def firstIllegal : Nat → List Word → Option (Nat × Illegal)
  | _, [] => none
  | n, w :: ws =>
    match decodeWord w with
    | .error e => some (n, e)
    | .ok _ => firstIllegal (n + 1) ws

/-- Why a program is rejected (R168), with the index of the word: an empty program has PROG_LEN 0 (R9) and reports index 0. Of several
illegal words the first is reported (DESIGN CHOICE, log 13). -/
def programProblem (program : List Word) : Option (Nat × LoadReason) :=
  if program = [] then some (0, .emptyProgram) else (firstIllegal 0 program).map fun p => (p.1, .illegalWord p.2)

/-- The first core, from core k on, whose program does not pass the load-time check (R168). That the least such core is reported is the
model's (DESIGN CHOICE, log 13). -/
def firstRejected : Nat → List Core → Option (Nat × Nat × LoadReason)
  | _, [] => none
  | k, c :: cs =>
    match programProblem c.imem with
    | some p => some (k, p)
    | none => firstRejected (k + 1) cs

/-- Some core's program is rejected: "reset is not released while any core's program is rejected" (R168). -/
def State.loadProblem (s : State) : Option (Nat × Nat × LoadReason) := firstRejected 0 s.cores

/-- The start of a tick: `cycle <- cycle + 1` (R163). Once the run has ended the clock is not ticked any more and the state stays
(R164, log 9); a machine with a rejected program does not start (R168). -/
def tickStartAction (s : State) : Result :=
  if s.allDrained then .next s
  else
    match s.loadProblem with
    | some (k, n, e) => .refused (.loadFatal k n e)
    | none => .next ({ s with cycle := s.cycle + 1 }.give (.cycleStart 0))

/-- Core k's turn in the tick: "if drained[k] = 0: PipelineCycle(k)"; after the last core comes the memory (R163). -/
def cycleStartAction (k : Nat) (s : State) : Result :=
  if k < s.nCores then
    if (s.core k).drained then .next (s.give (.cycleStart (k + 1)))
    else .next ((s.modCore k Core.beginCycle).give (.stage k .writeBack))
  else .next (s.give .memory)

/-- One action of the machine, the one whose turn it is, and the turn passed on (R163). -/
def nextAction (s : State) : Result :=
  match s.turn with
  | .tickStart => tickStartAction s
  | .cycleStart k => cycleStartAction k s
  | .stage k st => onNext (stageAction k st s) fun s1 => .next (s1.give (st.turnAfter k))
  | .memory => .next (s.memTick.2.give (.bus s.memTick.1))
  | .bus r => .next ((s.busTick r).give .tickStart)

/-! ## The global tick and the run -/

/-- Stage `st` of core k, given the turn. -/
def stageInTurn (k : Nat) (st : Stage) (s : State) : Result := stageAction k st (s.give (.stage k st))

/-- `PipelineCycle` of core k (R112). -/
def pipelineCycle (k : Nat) (s : State) : Result :=
  onNext (stageInTurn k .writeBack (s.modCore k Core.beginCycle)) fun s1 =>
  onNext (stageInTurn k .memory s1) fun s2 =>
  onNext (stageInTurn k .execute s2) fun s3 =>
  onNext (stageInTurn k .decode s3) fun s4 =>
  stageInTurn k .fetch s4

/-- The cores of the list, in order: "if drained[k] = 0: PipelineCycle(k)" (R163). -/
def coreCycles : List Nat → State → Result
  | [], s => .next s
  | k :: ks, s => onNext (if (s.core k).drained then .next s else pipelineCycle k s) (coreCycles ks)

/-- `GlobalTick` (R163). -/
def globalTick (s : State) : Result :=
  onNext (coreCycles (List.range s.nCores) { s with cycle := s.cycle + 1 }) fun s1 =>
  .next ((s1.memTick.2.busTick s1.memTick.1).give .tickStart)

/-- How many steps the tick that begins at `s` takes: its start, a cycle's start and five stages for each core that is not drained, a
cycle's start for each drained core, the end of the core list, the memory and the bus. -/
def tickLength (s : State) : Nat := 4 + (s.cores.map fun c => if c.drained then 1 else 6).sum

/-- The run (R164): "ticks the global clock until every core reports fully drained", at most n ticks. -/
def runTicks : Nat → State → Result
  | 0, s => .next s
  | n + 1, s => if s.allDrained then .next s else onNext (globalTick s) (runTicks n)

/-! ## Placing a word where it is fetched next -/

/-- The core of a turn; outside a core's cycle the next cycle is core 0's. -/
def Turn.coreOf : Turn → Nat
  | .cycleStart k => k
  | .stage k _ => k
  | .tickStart => 0
  | .memory => 0
  | .bus _ => 0

/-- The core whose Fetch `placeWord` chooses. -/
def State.fetchCore (s : State) : Nat := if s.turn.coreOf < s.nCores then s.turn.coreOf else 0

/-- Word n of a program set to `w`; a shorter program is filled up with the no-operation `add $0,$0,$0` (R75). -/
def putWord (program : List Word) (n : Nat) (w : Word) : List Word :=
  if n < program.length then program.set n w
  else program ++ List.replicate (n - program.length) 0 ++ [w]

/-- `w` stored at `pc` in the instruction memory of the core whose Fetch comes next, that Fetch given the turn with nothing holding it
(log 3): this stands for the load of R23 and R186. -/
def State.placeWord (s : State) (w : Word) : State :=
  (s.modCore s.fetchCore fun c =>
    { c with
      imem := putWord c.imem c.pc.toNat w
      stalled := { c.stalled with fetch := false }
      hzHold := false
      branchTaken := false }).give (.stage s.fetchCore .fetch)

end Sys2Proof.Machine
end

