-- ==== Sys2Proof/Safety.lean ====
section
/-! DEFINITION. The terms that claims about runs are stated in: an instruction's passage through its stages, what a frame leaves unchanged, and the
invariants of the machine. -/

namespace Sys2Proof.Machine

/-! ## Outcomes -/

/-- The step completes with a next state. -/
def Safe (s : State) : Prop := ∃ t, step s = .next t

/-- One of the three runtime fatal errors, causes 2, 3 and 4 (R167, R169). -/
def Fault.runtimeFatal : Fault → Bool
  | .registerRange .. => true
  | .reg1Destination .. => true
  | .unrecognisedOpcode .. => true
  | .fetchFault .. => false
  | .addressFault .. => false
  | .shiftFault .. => false

/-- The cause codes of R167 for the errors of a running machine; code 1 is `Refusal.code`. -/
def Fault.code : Fault → Nat
  | .registerRange .. => 2
  | .reg1Destination .. => 3
  | .unrecognisedOpcode .. => 4
  | .fetchFault .. => 5
  | .addressFault .. => 6
  | .shiftFault .. => 7

/-- The cause code of R167 for the load-time error, LoadFatal; the model's own two refusals are no errors of R167. -/
def Refusal.code : Refusal → Option Nat
  | .loadFatal .. => some 1
  | _ => none

/-! ## The passage of one instruction -/

/-- Instruction `i` of core k passes Decode, Execute, Memory and Write-back, each one call of `exec` that answers a next state, the core's pending
deferred write being applied first in Write-back (R114, R128): from `s`, where `slot[D]` holds its record, to `t`. -/
def Passage (i : Instr) (k : Nat) (s t : State) : Prop :=
  ∃ t1 t2 t3,
    exec i (s.give (.stage k .decode)) = .next t1 ∧
    exec i (t1.give (.stage k .execute)) = .next t2 ∧
    exec i (t2.give (.stage k .memory)) = .next t3 ∧
    exec i ((t3.applyDeferred k).give (.stage k .writeBack)) = .next t

/-- Nothing outside the cores changes, but for whose turn it is; every word of memory reads as before. -/
def SameShared (s t : State) : Prop :=
  t.cfg = s.cfg ∧ t.txn = s.txn ∧ t.mem = s.mem ∧ (∀ a, t.mem.read a = s.mem.read a) ∧ t.memop = s.memop ∧
    t.memStaged = s.memStaged ∧ t.cycle = s.cycle ∧ t.events = s.events ∧ t.nCores = s.nCores

/-- Nothing outside core k changes, but for whose turn it is. -/
def SameOutside (k : Nat) (s t : State) : Prop :=
  SameShared s t ∧ ∀ j, j ≠ k → t.core j = s.core j

/-- Fetch's and Decode's slots are as before. -/
def SameFront (k : Nat) (s t : State) : Prop :=
  t.slot k .fetch = s.slot k .fetch ∧ t.slot k .decode = s.slot k .decode

/-- The deferred write that an instruction with destination `d` and value `v` leaves: none for registers 0 and 1 (R18, R19, R128). -/
def deferredOf (d : Reg) (v : Word) : Option DeferredWrite :=
  if d = 0 ∨ d = 1 then none else some { reg := d, val := v }

/-- Core k is as it was, its old deferred write applied, but for the slots that the record passed through and the new deferred write `d`. -/
def OnlyDeferred (k : Nat) (s t : State) (d : Option DeferredWrite) : Prop :=
  t.core k = { (s.core k).applyDeferred with slots := (t.core k).slots, dw := d } ∧ SameFront k s t

/-- Instruction `i` of core k completes its passage from `s`, and all it does is to leave the deferred write of `v` to `d` (none for registers 0 and 1);
the core's older deferred write has been applied. -/
def Computes (i : Instr) (k : Nat) (s : State) (d : Reg) (v : Word) : Prop :=
  ∃ t, Passage i k s t ∧ SameOutside k s t ∧ OnlyDeferred k s t (deferredOf d v)

/-- Branch `i` of core k completes its passage from `s`, and all it does is to move `pc` to `target` and raise `branch_taken` when it is taken. -/
def BranchesTo (i : Instr) (k : Nat) (s : State) (taken : Prop) [Decidable taken] (target : Word) : Prop :=
  ∃ t, Passage i k s t ∧ SameOutside k s t ∧ SameFront k s t ∧
    t.core k =
      { (s.core k).applyDeferred with
        slots := (t.core k).slots
        pc := if taken then target else (s.core k).pc
        branchTaken := if taken then true else (s.core k).branchTaken }

/-- The signed value of an immediate as a word: `sext_12` (R11, R67). -/
def immWord (imm : Imm) : Word := BitVec.ofInt 32 imm.toInt

/-- The stop that a fault reports (R173). -/
def Fault.stop : Fault → Stop
  | .registerRange _ p => p
  | .reg1Destination _ p => p
  | .unrecognisedOpcode _ p => p
  | .fetchFault _ p => p
  | .addressFault _ _ p => p
  | .shiftFault _ _ p => p

/-- The stage that raises a fault (R167). -/
def Fault.stage : Fault → Stage
  | .registerRange .. => .decode
  | .reg1Destination .. => .decode
  | .unrecognisedOpcode .. => .execute
  | .fetchFault .. => .fetch
  | .addressFault .. => .memory
  | .shiftFault .. => .execute

/-- Core k is frozen for a request of `cmd` on `a` in its Memory stage and otherwise as in `c`, but for its cache's counters: its stages M, E, D
and F are stalled, W from the next cycle on (R125), and the request is latched (R143). -/
def FrozenFor (c c' : Core) (cmd : BusCmd) (a : Word) : Prop :=
  c' =
    { c with
      stalled := { fetch := true, decode := true, execute := true, memory := true, writeBack := c.stalled.writeBack }
      stallNext := { c.stallNext with writeBack := true }
      pend := some { cmd := cmd, addr := a }
      cache := c'.cache } ∧
  c'.cache.lines = c.cache.lines

/-- The request of core k is granted at once when the bus is idle and no other core waits, and otherwise waits (R143). -/
def GrantedOrWaiting (s t : State) (k : Nat) (cmd : BusCmd) (a : Word) : Prop :=
  if s.txn = none ∧ ∀ j, j < s.nCores → j ≠ k → (s.core j).pend = none then
    ∃ src, t.txn = some { owner := k, cmd := cmd, addr := a, source := src }
  else t.txn = s.txn

/-- What a store into its own Modified line leaves of core k's cache: the word in the line of `ea`, every other address's copy as it was, one
hit more (R135). -/
def StoredInLine (s t : State) (k : Nat) (ea v : Word) : Prop :=
  t.bits k ea = some .modified ∧ t.lineData k ea = v ∧
    (∀ b, b ≠ ea → t.bits k b = s.bits k b ∧ (s.bits k b ≠ none → t.lineData k b = s.lineData k b)) ∧
    (t.core k).cache = { (s.core k).cache with lines := (t.core k).cache.lines, hits := (s.core k).cache.hits + 1 }

/-- The watch table after a check by core k on `ea`: every core's Watched entry for `ea` is attributed to k, and nothing else changes (R157). -/
def WatchesConsumed (s t : State) (k : Nat) (ea : Word) : Prop :=
  ∀ j a, t.watchOf j a = if a = ea ∧ s.watchOf j ea = .watched then .succeededFor k else s.watchOf j a

/-- Nothing outside core k changes but the other cores' watch tables. -/
def SameButWatches (k : Nat) (s t : State) : Prop :=
  SameShared s t ∧ ∀ j, j ≠ k → t.core j = { s.core j with watch := (t.core j).watch }

/-- Nothing outside the cores changes but the transaction register, the memory's operation and the event log. -/
def SameBesideBus (s t : State) : Prop :=
  t.cfg = s.cfg ∧ t.mem = s.mem ∧ t.memStaged = s.memStaged ∧ t.cycle = s.cycle ∧ t.turn = s.turn ∧ t.nCores = s.nCores

/-- Core c' is c but for the state of the one line that holds `a`, which becomes `st`: every tag, word, counter and other address's copy is as it was. -/
def OnlyLineState (ib : Nat) (a : Word) (st : Option Msi) (c c' : Core) : Prop :=
  c' = { c with cache := { c.cache with lines := c'.cache.lines } } ∧
    c'.cache.lines.map (fun l => (l.tag, l.data)) = c.cache.lines.map (fun l => (l.tag, l.data)) ∧
    c'.cache.getBits ib a = st ∧ ∀ b, b ≠ a → c'.cache.getBits ib b = c.cache.getBits ib b

/-- An occupant that will write a register of the source set `rs` (R118, R119). -/
def ProducesOneOf (v : Slot) (rs : List Reg) : Prop :=
  ∃ p d, v.content = .instr p ∧ destReg p = some d ∧ d ∈ rs

/-- An occupant that will write a register of instruction i's source set (R118, R119). -/
def Produces (v : Slot) (i : Instr) : Prop := ProducesOneOf v (sourceRegs i)

/-- A cycle of a hazard stall that leaves the countdown at n (R120): a Bubble for Execute, and Decode holds. -/
def HeldInDecode (k : Nat) (s : State) (n : Nat) : Prop :=
  ∃ t v, step s = .next t ∧ SameOutside k s t ∧ t.turn = .stage k .fetch ∧ v.content = .bubble ∧
    t.core k = { s.core k with slots := { (s.core k).slots with execute := v }, hzCount := n, hzHold := true }

/-! ## Registers (R18, R19, R27) -/

/-- Registers 0 and 1 hold 0 and no deferred write names them. -/
def Core.HardWired (c : Core) : Prop :=
  c.regs[0] = 0 ∧ c.regs[1] = 0 ∧ ∀ d, c.dw = some d → d.reg ≠ 0 ∧ d.reg ≠ 1

/-- Every core's registers 0 and 1 hold 0. -/
def State.HardWired (s : State) : Prop := ∀ c ∈ s.cores, c.HardWired

/-! ## Tables in canonical form, caches of their size -/

/-- The memory and every watch table are in canonical form, and every cache has N_LINES lines (R31). -/
def State.Shaped (s : State) : Prop :=
  s.mem.wf = true ∧ ∀ c ∈ s.cores, Sparse.wf Watch.notWatched c.watch = true ∧ c.cache.lines.length = s.cfg.nLines

/-! ## Legal records (R168, R169) -/

/-- A content that a run from a legal program can meet: Bubble or a record that passes the load-time check. -/
def Content.Legal : Content → Prop
  | .bubble => True
  | .instr i => i.wf = true
  | .corrupt _ => False

/-- A program that passes the load-time check: at least one word, and every word legal (R168). -/
def ProgramLegal (program : List Word) : Prop := program ≠ [] ∧ ∀ w ∈ program, ∃ i, decodeWord w = .ok i

/-- Every slot of the core is legal and so is its program. -/
def Core.Legal (c : Core) : Prop :=
  (∀ st, (c.slots.get st).content.Legal) ∧ ProgramLegal c.imem

/-- Every core holds legal records only. -/
def State.Legal (s : State) : Prop := ∀ c ∈ s.cores, c.Legal

/-! ## Control state (R26, R28, R29, R125, R126) -/

/-- A core is frozen exactly while it has a request pending: its stages F, D, E and M are stalled at once and W from the next cycle on. -/
def Core.FreezeMatches (c : Core) : Prop :=
  c.stalled.fetch = c.pend.isSome ∧ c.stalled.decode = c.pend.isSome ∧ c.stalled.execute = c.pend.isSome ∧
    c.stalled.memory = c.pend.isSome ∧ (c.stalled.writeBack || c.stallNext.writeBack) = c.pend.isSome ∧
    c.stallNext.fetch = false ∧ c.stallNext.decode = false ∧ c.stallNext.execute = false ∧ c.stallNext.memory = false

/-- The freeze matches the requests, the transaction in flight serves its owner's request, the hazard countdown is in 0 .. 3, and `branch_taken` is
set only between a core's Decode and its Fetch. -/
def State.Controlled (s : State) : Prop :=
  (∀ c ∈ s.cores, c.FreezeMatches ∧ c.hzCount ≤ 3) ∧
  (∀ t, s.txn = some t → t.owner < s.nCores ∧ (s.core t.owner).pend = some { cmd := t.cmd, addr := t.addr }) ∧
  ∀ k, k < s.nCores → (s.core k).branchTaken = true →
    s.turn = .stage k .fetch ∧ (s.core k).hzHold = false ∧ (s.core k).stalled.fetch = false

/-! ## Coherence (R50) -/

/-- Where one cache holds an address Modified no other cache holds a copy of it (R50 (b), (c)). -/
def State.Exclusive (s : State) : Prop :=
  ∀ j k a, j ≠ k → s.bits j a = some .modified → s.bits k a = none

/-- While a transaction is in flight no core but its owner holds the address Modified, and for a BusRdX none holds a copy. -/
def State.TxnExclusive (s : State) : Prop :=
  ∀ t, s.txn = some t → ∀ j, j ≠ t.owner →
    s.bits j t.addr ≠ some .modified ∧ (t.cmd = .busRdX → s.bits j t.addr = none)

/-- The word that a Shared copy of `a` must hold: the data being flushed while a Flush of `a` is in flight, else `mem[a]`. -/
def State.cleanWord (s : State) (a : Word) : Word :=
  match s.txn with
  | none => s.mem.read a.toNat
  | some t =>
    if t.addr = a then
      match t.source with
      | .flush d => d
      | .memRead => s.mem.read a.toNat
      | .cacheSupply _ => s.mem.read a.toNat
    else s.mem.read a.toNat

/-- Every Shared copy holds the clean word (R50 (d)). -/
def State.SharedClean (s : State) : Prop :=
  ∀ k a, s.bits k a = some .shared → s.lineData k a = s.cleanWord a

/-- The memory's operation is the one the transaction in flight waits for; its result stands ready in the bus's turn of the tick in which it completed;
and with no transaction the memory is idle (R145, R149, R150). -/
def State.MemMatches (s : State) : Prop :=
  match s.txn with
  | none => s.memop = none
  | some t =>
    match t.source with
    | .cacheSupply d => s.memop = none ∧ (t.cmd = .busRd → d = s.mem.read t.addr.toNat)
    | .memRead =>
      (s.turn = .bus .readCompleted ∧ s.memop = none ∧ s.memStaged = s.mem.read t.addr.toNat) ∨
      (s.turn ≠ .bus .readCompleted ∧ ∃ n, s.memop = some { kind := .read, addr := t.addr, remaining := n })
    | .flush d =>
      (s.turn = .bus .writeCompleted ∧ s.memop = none ∧ s.mem.read t.addr.toNat = d) ∨
      (s.turn ≠ .bus .writeCompleted ∧ ∃ n, s.memop = some { kind := .write d, addr := t.addr, remaining := n })

/-- The coherence invariant. -/
def State.Coherent (s : State) : Prop :=
  s.Exclusive ∧ s.TxnExclusive ∧ s.SharedClean ∧ s.MemMatches

/-- The coherent value of word `a` (R56): the data of the Modified holder if there is one, else `mem[a]`. -/
def State.coherentWord (s : State) (a : Word) : Word :=
  match (List.range s.nCores).find? fun j => s.bits j a = some .modified with
  | some j => s.lineData j a
  | none => s.mem.read a.toNat

end Sys2Proof.Machine
end

