-- ==== Sys2Proof/Certificates/Slice0/Obligations.lean ====
section
/-! DEFINITION. The statements for the provers. Each docstring names the rule or the section of spec/ it formalises; OBLIGATIONS.json lists them. A
number in a docstring such as D19 is a decision of spec/92_eei_decisions.md, and "log n" a row of notes/assumptions/. -/

open Sys2Proof Sys2Proof.Machine

/-! ## The word form -/

/-- Words written out in 30_encoding.md R76 and 95_test_vectors.md 2.1 decode to the instructions they stand for, and illegal words of 2.1 are rejected
with their reasons (D4). -/
def Obligations.WordsOfTheSpecDecode : Prop :=
  decodeWord 0x80200007 = .ok (.addImm 2 0 7) ∧
  decodeWord 0x00423000 = .ok (.add 4 2 3) ∧
  decodeWord 0x88760002 = .ok (.sraImm 7 6 2) ∧
  decodeWord 0x0C020003 = .ok (.bgt 2 0 3) ∧
  decodeWord 0x0F100003 = .ok (.jal 1 3) ∧
  decodeWord 0x11320000 = .ok (.sw 3 2 0) ∧
  decodeWord 0x13320000 = .ok (.sc 3 2 0) ∧
  decodeWord 0x14000000 = .ok .halt ∧
  decodeWord 0x15000000 = .error .unassignedOpcode ∧
  decodeWord 0x89000004 = .error .immediateSelect ∧
  decodeWord 0x80201005 = .error (.nonzeroField .rt) ∧
  decodeWord 0x11120000 = .error .reg1Destination

/-- Decode and encode agree: an instruction that passes the load-time check is read back from its word, with every operand at every value (R71, D4). -/
def Obligations.DecodeOfEncode : Prop :=
  ∀ i : Instr, i.wf = true → decodeWord (encode i) = .ok i

/-- Encode and decode agree: a word the decoder accepts is the word of the instruction it gives, which passes the load-time check (R71, D4). -/
def Obligations.EncodeOfDecode : Prop :=
  ∀ (w : BitVec 32) (i : Instr), decodeWord w = .ok i → encode i = w ∧ i.wf = true

/-- The decoder accepts the words of the opcode table, less `rd` = 1 in a RegisterOp or MemoryOp, and no others (R66, R69, D4): an accepted word is an instance of
its instruction's row and has no such `rd`, and an instance of a row without such an `rd` is accepted, as an instruction of that row. -/
def Obligations.DecoderAcceptsTheTable : Prop :=
  (∀ (w : BitVec 32) (i : Instr), decodeWord w = .ok i →
    w &&& i.row.mask = i.row.pattern ∧ ((i.variant = .registerOp ∨ i.variant = .memoryOp) → rdField w ≠ 1)) ∧
  ∀ (w : BitVec 32) (r : Instr), w &&& r.row.mask = r.row.pattern →
    ((r.variant = .registerOp ∨ r.variant = .memoryOp) → rdField w ≠ 1) →
    ∃ i, decodeWord w = .ok i ∧ i.row = r.row

/-! ## A step runs the decoded instruction -/

/-- When Fetch of core k has the turn, nothing holds it, and the word at `pc` decodes to an instruction, the step is `exec` of that instruction at that
state, and then the turn passes to the next core (R115; one action a step: log 2). -/
def Obligations.StepRunsTheFetchedInstruction : Prop :=
  ∀ (s : State) (k : Nat) (w : Word) (i : Instr), s.turn = .stage k .fetch →
    (s.core k).stalled.fetch = false → (s.core k).hzHold = false → (s.core k).branchTaken = false →
    (s.core k).imem[(s.core k).pc.toNat]? = some w → decodeWord w = .ok i →
    step s = onNext (exec i s) fun t => .next (t.give (.cycleStart (k + 1)))

/-- What the stages of core k do around `exec` (R26, R110, R112, R116, R123, R124, R128; log 2). A stalled stage does nothing. A Bubble is passed on unchanged by
Decode, Execute and Memory, and Write-back of it records no write. An instruction is run: when one of the stages after Fetch has the turn, is not stalled and holds an
instruction, the step is `exec` of it. Around both, Write-back first applies the pending deferred write, Decode goes on only when no hazard stall is due, with the
countdown and the hold flag cleared, and the turn passes to the next stage. -/
def Obligations.StepRunsTheOccupant : Prop :=
  (∀ (s : State) (k : Nat) (st : Stage), s.turn = .stage k st → (s.core k).stalled.get st = true →
    step s = .next (s.give (st.turnAfter k))) ∧
  (∀ (s : State) (k : Nat), k < s.nCores →
    (s.turn = .stage k .writeBack → (s.core k).stalled.writeBack = false → (s.slot k .writeBack).content = .bubble →
      ∃ t, step s = .next t ∧ SameOutside k s t ∧ t.turn = .stage k .memory ∧ t.core k = (s.core k).applyDeferred) ∧
    (s.turn = .stage k .memory → (s.core k).stalled.memory = false → (s.slot k .memory).content = .bubble →
      ∃ t, step s = .next t ∧ SameOutside k s t ∧ t.turn = .stage k .execute ∧
        t.core k = { s.core k with slots := { (s.core k).slots with writeBack := (s.core k).slots.memory } }) ∧
    (s.turn = .stage k .execute → (s.core k).stalled.execute = false → (s.slot k .execute).content = .bubble →
      ∃ t, step s = .next t ∧ SameOutside k s t ∧ t.turn = .stage k .decode ∧
        t.core k = { s.core k with slots := { (s.core k).slots with memory := (s.core k).slots.execute } }) ∧
    (s.turn = .stage k .decode → (s.core k).stalled.decode = false → (s.slot k .decode).content = .bubble →
      (s.core k).hzCount = 0 →
      ∃ t, step s = .next t ∧ SameOutside k s t ∧ t.turn = .stage k .fetch ∧
        t.core k =
          { s.core k with
            slots := { (s.core k).slots with execute := (s.core k).slots.decode }, hzCount := 0, hzHold := false })) ∧
  ∀ (s : State) (k : Nat) (i : Instr),
    (s.turn = .stage k .writeBack → (s.core k).stalled.writeBack = false → (s.slot k .writeBack).content = .instr i →
      step s = onNext (exec i (s.applyDeferred k)) fun t => .next (t.give (.stage k .memory))) ∧
    (s.turn = .stage k .memory → (s.core k).stalled.memory = false → (s.slot k .memory).content = .instr i →
      step s = onNext (exec i s) fun t => .next (t.give (.stage k .execute))) ∧
    (s.turn = .stage k .execute → (s.core k).stalled.execute = false → (s.slot k .execute).content = .instr i →
      step s = onNext (exec i s) fun t => .next (t.give (.stage k .decode))) ∧
    (s.turn = .stage k .decode → (s.core k).stalled.decode = false → (s.slot k .decode).content = .instr i →
      (s.core k).hzCount = 0 →
      (¬ Produces (s.core k).occExecute i ∧ ¬ Produces (s.core k).occMemory i ∧ ¬ Produces (s.core k).occWriteBack i) →
      step s = onNext (exec i (s.modCore k fun c => { c with hzCount := 0, hzHold := false }))
        fun t => .next (t.give (.stage k .fetch)))

/-- A word placed where the machine fetches next is run by the very next step (the model's interface, log 3). -/
def Obligations.PlacedWordRunsNext : Prop :=
  ∀ (s : State) (w : Nat) (i : Instr), 0 < s.nCores → w < 2 ^ 32 → decodeTableWord 32 w = some i →
    ∃ k, k < s.nCores ∧ (s.withFetchWord 32 w).turn = .stage k .fetch ∧
      step (s.withFetchWord 32 w) =
        onNext (exec i (s.withFetchWord 32 w)) fun t => .next (t.give (.cycleStart (k + 1)))

/-! ## A pipeline cycle begins -/

/-- A core's pipeline cycle begins with the delayed stalls made current, the occupants of E, M and W latched, and the cycle counted, frozen or not: a stage is counted when it holds
a non-bubble (D15, D12, D27). -/
def Obligations.CycleStartLatchesTheOccupants : Prop :=
  ∀ (s : State) (k : Nat), s.turn = .cycleStart k → k < s.nCores → (s.core k).drained = false →
    ∃ t, step s = .next t ∧ SameOutside k s t ∧ t.turn = .stage k .writeBack ∧
      t.core k =
        { s.core k with
          stalled :=
            { fetch := (s.core k).stalled.fetch || (s.core k).stallNext.fetch
              decode := (s.core k).stalled.decode || (s.core k).stallNext.decode
              execute := (s.core k).stalled.execute || (s.core k).stallNext.execute
              memory := (s.core k).stalled.memory || (s.core k).stallNext.memory
              writeBack := (s.core k).stalled.writeBack || (s.core k).stallNext.writeBack }
          stallNext := {}
          occExecute := s.slot k .execute
          occMemory := s.slot k .memory
          occWriteBack := s.slot k .writeBack
          util :=
            { fetch := (s.core k).util.fetch
              decode := (s.core k).util.decode + if (s.slot k .decode).content = .bubble then 0 else 1
              execute := (s.core k).util.execute + if (s.slot k .execute).content = .bubble then 0 else 1
              memory := (s.core k).util.memory + if (s.slot k .memory).content = .bubble then 0 else 1
              writeBack := (s.core k).util.writeBack + if (s.slot k .writeBack).content = .bubble then 0 else 1
              total := (s.core k).util.total + 1 } }

/-! ## Fetch -/

/-- Every instruction, in Fetch, enters `slot[F]` and `slot[D]` with its own index and moves `pc` on by one, but HALT, which leaves `pc` (R115, R109);
nothing else changes but the count of fetches (R181). -/
def Obligations.FetchEntersThePipeline : Prop :=
  ∀ (i : Instr) (s : State) (k : Nat), s.turn = .stage k .fetch → k < s.nCores →
    ∃ t v, exec i s = .next t ∧ v.content = .instr i ∧ v.ipc = (s.core k).pc ∧ SameOutside k s t ∧ t.turn = s.turn ∧
      t.core k =
        { s.core k with
          slots := { (s.core k).slots with fetch := v, decode := v }
          pc := if i = .halt then (s.core k).pc else (s.core k).pc + 1
          util := { (s.core k).util with fetch := (s.core k).util.fetch + 1 } }

/-- Fetch at or past the program's end stops the machine with FetchFault(`pc`), every negative target among them (D25). -/
def Obligations.FetchPastTheProgramFaults : Prop :=
  ∀ (s : State) (k : Nat), s.turn = .stage k .fetch →
    (s.core k).stalled.fetch = false → (s.core k).hzHold = false → (s.core k).branchTaken = false →
    (s.core k).imem.length ≤ (s.core k).pc.toNat →
    step s = .fault (.fetchFault (s.core k).pc { core := k, cycle := s.cycle, left := s })

/-! ## The instructions: arithmetic, logic, shifts -/

/-- ADD (R79) and SUB (R80), opcodes 0 and 1, in both forms: the sum and the difference modulo 2^32, and nothing else but the deferred write. -/
def Obligations.AddSubResults : Prop :=
  ∀ (s : State) (k : Nat) (rd rs : Reg), k < s.nCores → rd ≠ 1 →
    (∀ rt : Reg,
      Computes (.add rd rs rt) k s rd (BitVec.ofNat 32 ((s.reg k rs).toNat + (s.reg k rt).toNat)) ∧
      Computes (.sub rd rs rt) k s rd (BitVec.ofInt 32 ((s.reg k rs).toInt - (s.reg k rt).toInt)) ∧
      opcodeField (encode (.add rd rs rt)) = 0 ∧ opcodeField (encode (.sub rd rs rt)) = 1) ∧
    ∀ imm : Imm,
      Computes (.addImm rd rs imm) k s rd (BitVec.ofInt 32 ((s.reg k rs).toInt + imm.toInt)) ∧
      Computes (.subImm rd rs imm) k s rd (BitVec.ofInt 32 ((s.reg k rs).toInt - imm.toInt)) ∧
      opcodeField (encode (.addImm rd rs imm)) = 0 ∧ opcodeField (encode (.subImm rd rs imm)) = 1

/-- AND (R81), OR (R82) and XOR (R83), opcodes 2, 3 and 4, in both forms, bit by bit; the immediate is sign-extended first. -/
def Obligations.LogicResults : Prop :=
  ∀ (s : State) (k : Nat) (rd rs : Reg), k < s.nCores → rd ≠ 1 →
    (∀ rt : Reg,
      (∃ v, Computes (.and rd rs rt) k s rd v ∧
        ∀ n, v.getLsbD n = ((s.reg k rs).getLsbD n && (s.reg k rt).getLsbD n)) ∧
      (∃ v, Computes (.or rd rs rt) k s rd v ∧
        ∀ n, v.getLsbD n = ((s.reg k rs).getLsbD n || (s.reg k rt).getLsbD n)) ∧
      (∃ v, Computes (.xor rd rs rt) k s rd v ∧
        ∀ n, v.getLsbD n = ((s.reg k rs).getLsbD n ^^ (s.reg k rt).getLsbD n)) ∧
      opcodeField (encode (.and rd rs rt)) = 2 ∧ opcodeField (encode (.or rd rs rt)) = 3 ∧
      opcodeField (encode (.xor rd rs rt)) = 4) ∧
    ∀ imm : Imm,
      (∃ v, Computes (.andImm rd rs imm) k s rd v ∧
        ∀ n, v.getLsbD n = ((s.reg k rs).getLsbD n && (immWord imm).getLsbD n)) ∧
      (∃ v, Computes (.orImm rd rs imm) k s rd v ∧
        ∀ n, v.getLsbD n = ((s.reg k rs).getLsbD n || (immWord imm).getLsbD n)) ∧
      (∃ v, Computes (.xorImm rd rs imm) k s rd v ∧
        ∀ n, v.getLsbD n = ((s.reg k rs).getLsbD n ^^ (immWord imm).getLsbD n)) ∧
      opcodeField (encode (.andImm rd rs imm)) = 2 ∧ opcodeField (encode (.orImm rd rs imm)) = 3 ∧
      opcodeField (encode (.xorImm rd rs imm)) = 4

/-- MUL in both forms: the low 32 bits of the product (D3). -/
def Obligations.MulResults : Prop :=
  ∀ (s : State) (k : Nat) (rd rs : Reg), k < s.nCores → rd ≠ 1 →
    (∀ rt : Reg, Computes (.mul rd rs rt) k s rd (BitVec.ofNat 32 ((s.reg k rs).toNat * (s.reg k rt).toNat))) ∧
    ∀ imm : Imm, Computes (.mulImm rd rs imm) k s rd (BitVec.ofInt 32 ((s.reg k rs).toInt * imm.toInt))

/-- SLL (R86) and SRL (R87), opcodes 6 and 7, in both forms, for an amount n in 0 .. 31: A times 2^n modulo 2^32, and A div 2^n on the unsigned reading. -/
def Obligations.LogicalShiftResults : Prop :=
  ∀ (s : State) (k n : Nat) (rd rs : Reg), k < s.nCores → rd ≠ 1 → n ≤ 31 →
    (∀ rt : Reg, (s.reg k rt).toInt = n →
      Computes (.sll rd rs rt) k s rd (BitVec.ofNat 32 ((s.reg k rs).toNat * 2 ^ n)) ∧
      Computes (.srl rd rs rt) k s rd (BitVec.ofNat 32 ((s.reg k rs).toNat / 2 ^ n)) ∧
      opcodeField (encode (.sll rd rs rt)) = 6 ∧ opcodeField (encode (.srl rd rs rt)) = 7) ∧
    ∀ imm : Imm, imm.toInt = n →
      Computes (.sllImm rd rs imm) k s rd (BitVec.ofNat 32 ((s.reg k rs).toNat * 2 ^ n)) ∧
      Computes (.srlImm rd rs imm) k s rd (BitVec.ofNat 32 ((s.reg k rs).toNat / 2 ^ n)) ∧
      opcodeField (encode (.sllImm rd rs imm)) = 6 ∧ opcodeField (encode (.srlImm rd rs imm)) = 7

/-- SRA in both forms, for an amount n in 0 .. 31: floor(signed(A) / 2^n); that the letters mean sign fill is the spec's "[from general knowledge, not
in source]" (R85, R88). -/
def Obligations.ArithmeticShiftResults : Prop :=
  ∀ (s : State) (k n : Nat) (rd rs : Reg), k < s.nCores → rd ≠ 1 → n ≤ 31 →
    (∀ rt : Reg, (s.reg k rt).toInt = n →
      Computes (.sra rd rs rt) k s rd (BitVec.ofInt 32 (Int.fdiv (s.reg k rs).toInt (2 ^ n)))) ∧
    ∀ imm : Imm, imm.toInt = n →
      Computes (.sraImm rd rs imm) k s rd (BitVec.ofInt 32 (Int.fdiv (s.reg k rs).toInt (2 ^ n)))

/-- A shift whose amount, read as signed, is below 0 or above 31 stops the machine in Execute with ShiftFault of that amount, in every form (D10). -/
def Obligations.ShiftAmountOutsideFaults : Prop :=
  ∀ (s : State) (k : Nat) (i : Instr), s.turn = .stage k .execute →
    ((∃ rd rs rt, i = .sll rd rs rt ∨ i = .srl rd rs rt ∨ i = .sra rd rs rt) ∨
      ∃ rd rs imm, i = .sllImm rd rs imm ∨ i = .srlImm rd rs imm ∨ i = .sraImm rd rs imm) →
    ((s.slot k .execute).b.toInt < 0 ∨ 31 < (s.slot k .execute).b.toInt) →
    exec i s =
      .fault (.shiftFault (s.slot k .execute).ipc (s.slot k .execute).b.toInt { core := k, cycle := s.cycle, left := s })

/-! ## The instructions: branches, JAL, HALT -/

/-- The six conditional branches (R90 to R95), opcodes 9 to 14: taken exactly on their condition of the signed readings, and then all they do is to send `pc` to the
immediate and raise `branch_taken`. That the comparison is signed (D9) and that the target is the immediate as an absolute index (D8) are the spec's decisions in R89. -/
def Obligations.BranchesDecideOnTheirCondition : Prop :=
  ∀ (s : State) (k : Nat) (rs rt : Reg) (imm : Imm), k < s.nCores →
    BranchesTo (.beq rs rt imm) k s (s.reg k rs = s.reg k rt) (immWord imm) ∧
    BranchesTo (.bne rs rt imm) k s (s.reg k rs ≠ s.reg k rt) (immWord imm) ∧
    BranchesTo (.blt rs rt imm) k s ((s.reg k rs).toInt < (s.reg k rt).toInt) (immWord imm) ∧
    BranchesTo (.bgt rs rt imm) k s ((s.reg k rs).toInt > (s.reg k rt).toInt) (immWord imm) ∧
    BranchesTo (.ble rs rt imm) k s ((s.reg k rs).toInt ≤ (s.reg k rt).toInt) (immWord imm) ∧
    BranchesTo (.bge rs rt imm) k s ((s.reg k rs).toInt ≥ (s.reg k rt).toInt) (immWord imm) ∧
    opcodeField (encode (.beq rs rt imm)) = 9 ∧ opcodeField (encode (.bne rs rt imm)) = 10 ∧
    opcodeField (encode (.blt rs rt imm)) = 11 ∧ opcodeField (encode (.bgt rs rt imm)) = 12 ∧
    opcodeField (encode (.ble rs rt imm)) = 13 ∧ opcodeField (encode (.bge rs rt imm)) = 14

/-- JAL, whatever `rd` holds: `pc` goes to the immediate, `branch_taken` is raised, and the index after its own goes to register 15 (R96; that the link is
the JAL's own index plus 1 is D7). -/
def Obligations.JalLinksAndJumps : Prop :=
  ∀ (s : State) (k : Nat) (rd : Reg) (imm : Imm), k < s.nCores →
    ∃ t, Passage (.jal rd imm) k s t ∧ SameOutside k s t ∧ SameFront k s t ∧
      t.core k =
        { (s.core k).applyDeferred with
          slots := (t.core k).slots
          pc := immWord imm
          branchTaken := true
          dw := some { reg := 15, val := (s.slot k .decode).ipc + 1 } }

/-- HALT (R109): Decode, Execute and Memory do nothing, and Write-back, the pending deferred write applied, drains the core. -/
def Obligations.HaltDrains : Prop :=
  ∀ (s : State) (k : Nat), k < s.nCores →
    ∃ t, Passage .halt k s t ∧ SameOutside k s t ∧ SameFront k s t ∧
      t.core k = { (s.core k).applyDeferred with slots := (t.core k).slots, drained := true }

/-- A drained core takes no further pipeline cycle, for good; only a HALT in Write-back drains one (R30). -/
def Obligations.DrainedCoreStaysStopped : Prop :=
  ∀ (s t : State) (k : Nat), k < s.nCores → step s = .next t →
    ((s.core k).drained = true → (t.core k).drained = true ∧
      ((∀ st, s.turn ≠ .stage k st) →
        (∀ st, t.turn ≠ .stage k st) ∧ (t.core k).regs = (s.core k).regs ∧ (t.core k).pc = (s.core k).pc ∧
          (t.core k).slots = (s.core k).slots)) ∧
    ((s.core k).drained = false → (t.core k).drained = true →
      s.turn = .stage k .writeBack ∧ (s.slot k .writeBack).content = .instr .halt)

/-! ## The instructions: loads and stores -/

/-- LW (R101) and LL (R103) on a hit: the word of the core's own line goes to `rd`; the cache counts a hit and keeps its lines; LL also leaves its
entry of the watch table Watched, and nothing else of the table changes. -/
def Obligations.LoadHitResults : Prop :=
  ∀ (s : State) (k : Nat) (rd rs rt : Reg) (ea : Word), k < s.nCores → rd ≠ 1 → s.Shaped →
    ea = BitVec.ofNat 32 ((s.reg k rs).toNat + (s.reg k rt).toNat) → ea.toNat < s.cfg.memWords →
    s.bits k ea ≠ none →
    (∃ t, Passage (.lw rd rs rt) k s t ∧ SameOutside k s t ∧ SameFront k s t ∧
      t.core k =
        { (s.core k).applyDeferred with
          slots := (t.core k).slots
          cache := { (s.core k).cache with hits := (s.core k).cache.hits + 1 }
          dw := deferredOf rd (s.lineData k ea) }) ∧
    ∃ t, Passage (.ll rd rs rt) k s t ∧ SameOutside k s t ∧ SameFront k s t ∧
      t.core k =
        { (s.core k).applyDeferred with
          slots := (t.core k).slots
          cache := { (s.core k).cache with hits := (s.core k).cache.hits + 1 }
          dw := deferredOf rd (s.lineData k ea)
          watch := (t.core k).watch } ∧
      ∀ a, t.watchOf k a = if a = ea then .watched else s.watchOf k a

/-- SW with the line Modified in its own cache (R102): the word of `rd` is stored in the line and nowhere else; no register is written and no word of
memory changes. -/
def Obligations.StoreHitResults : Prop :=
  ∀ (s : State) (k : Nat) (rd rs rt : Reg) (ea : Word), k < s.nCores → rd ≠ 1 →
    ea = BitVec.ofNat 32 ((s.reg k rs).toNat + (s.reg k rt).toNat) → ea.toNat < s.cfg.memWords →
    s.bits k ea = some .modified →
    ∃ t, Passage (.sw rd rs rt) k s t ∧ SameOutside k s t ∧ SameFront k s t ∧ StoredInLine s t k ea (s.reg k rd) ∧
      t.core k = { (s.core k).applyDeferred with slots := (t.core k).slots, cache := (t.core k).cache }

/-- SC (R104). With the core's entry attributed to another core it fails: 0 goes to `rd`, no access is made, even outside memory. Otherwise it succeeds: with
the line Modified in its own cache the word of `rd` is stored there and 1 goes to `rd`. Both consume the Watched entries of the address. -/
def Obligations.StoreConditionalResults : Prop :=
  ∀ (s : State) (k : Nat) (rd rs rt : Reg) (ea : Word), k < s.nCores → rd ≠ 1 → s.Shaped →
    ea = BitVec.ofNat 32 ((s.reg k rs).toNat + (s.reg k rt).toNat) →
    ((∃ j, j ≠ k ∧ s.watchOf k ea = .succeededFor j) →
      ∃ t, Passage (.sc rd rs rt) k s t ∧ SameButWatches k s t ∧ SameFront k s t ∧ WatchesConsumed s t k ea ∧
        t.core k =
          { (s.core k).applyDeferred with
            slots := (t.core k).slots, watch := (t.core k).watch, dw := deferredOf rd 0 }) ∧
    ((∀ j, j ≠ k → s.watchOf k ea ≠ .succeededFor j) → ea.toNat < s.cfg.memWords → s.bits k ea = some .modified →
      ∃ t, Passage (.sc rd rs rt) k s t ∧ SameButWatches k s t ∧ SameFront k s t ∧ WatchesConsumed s t k ea ∧
        StoredInLine s t k ea (s.reg k rd) ∧
        t.core k =
          { (s.core k).applyDeferred with
            slots := (t.core k).slots, cache := (t.core k).cache, watch := (t.core k).watch, dw := deferredOf rd 1 })

/-- `MemRead(addr, 1)` of LW and LL in the Memory stage (R99): AddressFault outside memory; on a hit the data of the own line, counted; on a miss, counted, the
core freezes with a BusRd request, which is granted at once on an idle bus, and no word of memory, no register and no slot changes. -/
def Obligations.MemReadHitMissOrFault : Prop :=
  ∀ (s : State) (k : Nat) (rd rs rt : Reg) (i : Instr) (v : Slot), s.turn = .stage k .memory → k < s.nCores →
    (i = .lw rd rs rt ∨ i = .ll rd rs rt) → v = s.slot k .memory →
    (v.addr.toNat ≥ s.cfg.memWords →
      exec i s = .fault (.addressFault v.ipc v.addr { core := k, cycle := s.cycle, left := s })) ∧
    (v.addr.toNat < s.cfg.memWords → s.bits k v.addr ≠ none →
      ∃ t, exec i s = .next t ∧ SameOutside k s t ∧
        t.core k =
          { s.core k with
            slots := { (s.core k).slots with writeBack := { v with ldata := s.lineData k v.addr } }
            cache := { (s.core k).cache with hits := (s.core k).cache.hits + 1 } }) ∧
    (v.addr.toNat < s.cfg.memWords → s.bits k v.addr = none →
      ∃ t, exec i s = .next t ∧ FrozenFor (s.core k) (t.core k) .busRd v.addr ∧
        (t.core k).cache.misses = (s.core k).cache.misses + 1 ∧ (t.core k).cache.hits = (s.core k).cache.hits ∧
        GrantedOrWaiting s t k .busRd v.addr ∧ t.mem = s.mem ∧ ∀ a, t.mem.read a = s.mem.read a)

/-- `MemWrite(addr, 1, sdata)` of SW, and of an SC that was not suppressed, in the Memory stage (R100): AddressFault outside memory; with the line Modified the
word is stored in it; otherwise the core freezes with a BusRdX request, uncounted, and no word of memory, no register and no slot changes. -/
def Obligations.MemWriteStoreMissOrFault : Prop :=
  ∀ (s : State) (k : Nat) (rd rs rt : Reg) (i : Instr) (v : Slot), s.turn = .stage k .memory → k < s.nCores →
    (i = .sw rd rs rt ∨ (i = .sc rd rs rt ∧ v.scOk = true)) → v = s.slot k .memory →
    (v.addr.toNat ≥ s.cfg.memWords →
      exec i s = .fault (.addressFault v.ipc v.addr { core := k, cycle := s.cycle, left := s })) ∧
    (v.addr.toNat < s.cfg.memWords → s.bits k v.addr = some .modified →
      ∃ t, exec i s = .next t ∧ SameOutside k s t ∧ StoredInLine s t k v.addr v.sdata ∧
        t.core k =
          { s.core k with slots := { (s.core k).slots with writeBack := v }, cache := (t.core k).cache }) ∧
    (v.addr.toNat < s.cfg.memWords → s.bits k v.addr ≠ some .modified →
      ∃ t, exec i s = .next t ∧ FrozenFor (s.core k) (t.core k) .busRdX v.addr ∧
        (t.core k).cache.misses = (s.core k).cache.misses ∧ (t.core k).cache.hits = (s.core k).cache.hits ∧
        GrantedOrWaiting s t k .busRdX v.addr ∧ t.mem = s.mem ∧ ∀ a, t.mem.read a = s.mem.read a)

/-- The three runtime fatal stops (D11). A RegisterOp or MemoryOp whose `rd` is 1 stops the machine in Decode, SW among them (cause code 3); a corrupted record with a
register index over 15 waits in Decode for the producers of its other sources as any instruction does (D13, D14), and stops it there when no wait is left (code 2); one with
none of the opcodes stops it in Execute (code 4). How a corrupted record is represented is the model's (log 4). -/
def Obligations.Register1DestinationIsFatal : Prop :=
  (∀ (s : State) (k : Nat) (i : Instr), s.turn = .stage k .decode →
    (i.variant = .registerOp ∨ i.variant = .memoryOp) → i.rd = 1 →
    ∃ e, exec i s = .fault e ∧ e.code = 3 ∧
      e = .reg1Destination (s.slot k .decode).ipc { core := k, cycle := s.cycle, left := s }) ∧
  (∀ (s : State) (k : Nat) (w : WideRecord), s.turn = .stage k .decode → k < s.nCores →
    (s.core k).stalled.decode = false → (s.core k).hzCount = 0 →
    (s.slot k .decode).content = .corrupt (.registerRange w) →
    (∀ d : Reg, d ∈ w.sources ↔
      d ≠ 0 ∧ d ≠ 1 ∧ ∃ i, w.op = some i ∧ d.toNat ∈ [w.rs, w.rt, w.rd].take (sourceFields i).length) ∧
    (ProducesOneOf (s.core k).occExecute w.sources → HeldInDecode k s 2) ∧
    (¬ ProducesOneOf (s.core k).occExecute w.sources → ProducesOneOf (s.core k).occMemory w.sources →
      HeldInDecode k s 1) ∧
    (¬ ProducesOneOf (s.core k).occExecute w.sources → ¬ ProducesOneOf (s.core k).occMemory w.sources →
      ProducesOneOf (s.core k).occWriteBack w.sources → HeldInDecode k s 0) ∧
    (¬ ProducesOneOf (s.core k).occExecute w.sources → ¬ ProducesOneOf (s.core k).occMemory w.sources →
      ¬ ProducesOneOf (s.core k).occWriteBack w.sources →
      ∃ e, step s = .fault e ∧ e.code = 2 ∧
        e = .registerRange (s.slot k .decode).ipc
          { core := k, cycle := s.cycle, left := s.modCore k fun c => { c with hzCount := 0, hzHold := false } })) ∧
  ∀ (s : State) (k : Nat), s.turn = .stage k .execute → (s.core k).stalled.execute = false →
    (s.slot k .execute).content = .corrupt .opcode →
    ∃ e, step s = .fault e ∧ e.code = 4 ∧
      e = .unrecognisedOpcode (s.slot k .execute).ipc { core := k, cycle := s.cycle, left := s }

/-! ## Hazards, the write delay, the branch flush -/

/-- The hazard check (R119): against Execute it imposes 3 cycles, else against Memory 2, else against Write-back 1, of which this cycle is the first, else none:
Decode runs the instruction. The countdown, the Bubble and the hold flag are those of D14, the occupants those latched at the cycle's start (D12), the source sets and
producers those of D13. -/
def Obligations.HazardStallLengths : Prop :=
  ∀ (s : State) (k : Nat) (i : Instr), s.turn = .stage k .decode → k < s.nCores →
    (s.core k).stalled.decode = false → (s.core k).hzCount = 0 → (s.slot k .decode).content = .instr i →
    (Produces (s.core k).occExecute i → HeldInDecode k s 2) ∧
    (¬ Produces (s.core k).occExecute i → Produces (s.core k).occMemory i → HeldInDecode k s 1) ∧
    (¬ Produces (s.core k).occExecute i → ¬ Produces (s.core k).occMemory i → Produces (s.core k).occWriteBack i →
      HeldInDecode k s 0) ∧
    (¬ Produces (s.core k).occExecute i → ¬ Produces (s.core k).occMemory i → ¬ Produces (s.core k).occWriteBack i →
      step s = onNext (exec i (s.modCore k fun c => { c with hzCount := 0, hzHold := false }))
        fun t => .next (t.give (.stage k .fetch)))

/-- While the countdown runs, Decode sends a Bubble and counts down, and Fetch, which comes next, does nothing (D14). -/
def Obligations.HazardStallCountsDown : Prop :=
  ∀ (s : State) (k n : Nat), k < s.nCores →
    (s.turn = .stage k .decode → (s.core k).stalled.decode = false → (s.core k).hzCount = n + 1 → HeldInDecode k s n) ∧
    (s.turn = .stage k .fetch → (s.core k).hzHold = true → step s = .next (s.give (.cycleStart (k + 1))))

/-- Decode reads no register outside the instruction's source set, but for registers 0 and 1, so what an instruction leaves in Decode does not depend on
the others (D13 gives the sets). -/
def Obligations.DecodeReadsOnlyItsSources : Prop :=
  ∀ (i : Instr) (s t : State) (k : Nat) (r : Reg) (v : Word), s.turn = .stage k .decode → k < s.nCores →
    r ∉ sourceRegs i → r ≠ 0 → r ≠ 1 → exec i s = .next t →
    exec i (s.modCore k fun c => { c with regs := c.regs.set r.toNat v r.isLt }) =
      .next (t.modCore k fun c => { c with regs := c.regs.set r.toNat v r.isLt })

/-- In Write-back every instruction answers, and the one register write it may record is to its destination, never to register 0 or 1; an instruction without
a destination records none (D13). -/
def Obligations.WriteBackRecordsOnlyTheDestination : Prop :=
  ∀ (i : Instr) (s : State) (k : Nat), s.turn = .stage k .writeBack → k < s.nCores →
    ∃ t, exec i s = .next t ∧ SameOutside k s t ∧ (t.core k).regs = (s.core k).regs ∧
      match destReg i with
      | none => (t.core k).dw = (s.core k).dw
      | some d =>
        if d = 0 ∨ d = 1 then (t.core k).dw = (s.core k).dw
        else ∃ v, (t.core k).dw = some { reg := d, val := v }

/-- The write delay (R129): a deferred write is applied by the core's next Write-back that is not stalled, to its register alone, and a stalled Write-back keeps
it. -/
def Obligations.DeferredWriteIsAppliedNext : Prop :=
  ∀ (s : State) (k : Nat) (d : DeferredWrite), s.turn = .stage k .writeBack → k < s.nCores →
    (s.core k).dw = some d →
    ((s.core k).stalled.writeBack = false →
      ∃ t, step s = .next t ∧ t.reg k d.reg = d.val ∧ ∀ r, r ≠ d.reg → t.reg k r = s.reg k r) ∧
    ((s.core k).stalled.writeBack = true → step s = .next (s.give (.stage k .memory)))

/-- The branch flush (R122): the cycle in which Decode takes a branch or decodes a JAL ends with a Bubble in `slot[F]` and `slot[D]`, the control transfer in
`slot[E]`, `pc` at the target and the flag clear, so that no instruction between is fetched. -/
def Obligations.TakenBranchFlushesOneSlot : Prop :=
  ∀ (s : State) (k : Nat) (i : Instr) (target : Word), s.turn = .stage k .decode → k < s.nCores →
    (s.core k).stalled.decode = false → (s.core k).stalled.fetch = false → (s.core k).hzCount = 0 →
    (s.slot k .decode).content = .instr i →
    (¬ Produces (s.core k).occExecute i ∧ ¬ Produces (s.core k).occMemory i ∧ ¬ Produces (s.core k).occWriteBack i) →
    ((∃ rd imm, i = .jal rd imm ∧ target = immWord imm) ∨
      ∃ rs rt imm, target = immWord imm ∧
        ((i = .beq rs rt imm ∧ s.reg k rs = s.reg k rt) ∨ (i = .bne rs rt imm ∧ s.reg k rs ≠ s.reg k rt) ∨
          (i = .blt rs rt imm ∧ (s.reg k rs).toInt < (s.reg k rt).toInt) ∨
          (i = .bgt rs rt imm ∧ (s.reg k rs).toInt > (s.reg k rt).toInt) ∨
          (i = .ble rs rt imm ∧ (s.reg k rs).toInt ≤ (s.reg k rt).toInt) ∨
          (i = .bge rs rt imm ∧ (s.reg k rs).toInt ≥ (s.reg k rt).toInt))) →
    ∃ t, Host.Core.run Sys2Proof.core 2 s = .next t ∧ (t.slot k .fetch).content = .bubble ∧
      (t.slot k .decode).content = .bubble ∧ (t.slot k .execute).content = .instr i ∧ (t.core k).pc = target ∧
      (t.core k).branchTaken = false ∧ t.turn = .cycleStart (k + 1) ∧ SameOutside k s t

/-! ## The cache -/

/-- The address split round-trips (D16: the index is the low bits). -/
def Obligations.AddressSplitJoins : Prop :=
  ∀ (ib : Nat) (a : Word),
    joinAddress ib (lineTag ib a) (lineIndex ib a) = a.toNat ∧
    ∀ b : Word, lineTag ib a = lineTag ib b → lineIndex ib a = lineIndex ib b → a = b

/-- A read hits exactly when the line is not Invalid and of the address's tag, returns the line's data and counts a hit; a miss counts a miss and
changes nothing else (R134). -/
def Obligations.CacheReadHitsOnMatch : Prop :=
  ∀ (c : Cache) (ib : Nat) (a : Word),
    ((c.line ib a).state ≠ .invalid ∧ (c.line ib a).tag = lineTag ib a →
      c.read ib a = (some (c.line ib a).data, { c with hits := c.hits + 1 })) ∧
    (¬ ((c.line ib a).state ≠ .invalid ∧ (c.line ib a).tag = lineTag ib a) →
      c.read ib a = (none, { c with misses := c.misses + 1 }))

/-- The bus's accessors (R137, R138): `getBits` answers the state of the matching line alone, `getData` its data, and `setBits` changes the state of the matching line alone, no tag, no data, no
counter and no other address's answer. -/
def Obligations.SetBitsChangesOneState : Prop :=
  ∀ (c : Cache) (ib : Nat) (a b : Word) (st : Msi), st = .shared ∨ st = .invalid →
    (c.getBits ib a =
      if (c.line ib a).state ≠ .invalid ∧ (c.line ib a).tag = lineTag ib a then some (c.line ib a).state else none) ∧
    c.getData ib a = (c.line ib a).data ∧
    (c.getBits ib a = none → c.setBits ib a st = c) ∧
    (c.getBits ib a ≠ none →
      (c.setBits ib a st).getBits ib a = (if st = .shared then some .shared else none)) ∧
    (b ≠ a → (c.setBits ib a st).getBits ib b = c.getBits ib b) ∧
    (c.setBits ib a st).lines.map (fun l => (l.tag, l.data)) = c.lines.map (fun l => (l.tag, l.data)) ∧
    c.setBits ib a st = { c with lines := (c.setBits ib a st).lines }

/-- The properties of 51_cache.md section 4, (c) to (f), for a cache with its N_LINES lines: a read after an install hits with its data, a write after an install
for writing succeeds and is read back, and an install takes away the copy of another address of the same index and leaves every other. -/
def Obligations.InstallReadWriteLaws : Prop :=
  ∀ (c : Cache) (ib : Nat) (a b d e : Word) (w : Bool), c.lines.length = 2 ^ ib →
    ((c.install ib a d w).read ib a).1 = some d ∧
    ((c.install ib a d true).write ib a e).1 = true ∧
    ((((c.install ib a d true).write ib a e).2).read ib a).1 = some e ∧
    (b ≠ a → lineIndex ib b = lineIndex ib a → (c.install ib a d w).getBits ib b = none) ∧
    (lineIndex ib b ≠ lineIndex ib a →
      (c.install ib a d w).getBits ib b = c.getBits ib b ∧ (c.install ib a d w).getData ib b = c.getData ib b) ∧
    (c.read ib a).2.lines = c.lines ∧ ((c.write ib a e).1 = false → (c.write ib a e).2 = c)

/-! ## The bus and the watch table -/

/-- The grant of a BusRd (R146): a Modified holder is demoted to Shared and its data flushed; else the least Shared holder supplies the data and no line changes; else memory is
read. No other core, no other line state, no tag, no word and no other counter changes; the completion installs the requester's line as Shared. That all of this
happens in the instant of the grant, the transaction record and the completion are D19 (R145, R149, R151). -/
def Obligations.BusRdGrant : Prop :=
  ∀ (s : State) (k : Nat) (a : Word), k < s.nCores → (s.core k).pend = some { cmd := .busRd, addr := a } →
    s.memop = none → s.Exclusive →
    (∀ j, j < s.nCores → j ≠ k → s.bits j a = some .modified →
      (s.grant k).bits j a = some .shared ∧
      (s.grant k).txn = some { owner := k, cmd := .busRd, addr := a, source := .flush (s.lineData j a) } ∧
      (s.grant k).memop = some { kind := .write (s.lineData j a), addr := a, remaining := s.cfg.memLatency } ∧
      OnlyLineState s.cfg.indexBits a (some .shared)
        { s.core j with cache := { (s.core j).cache with memWrites := (s.core j).cache.memWrites + 1 } } ((s.grant k).core j) ∧
      ∀ i, i ≠ j → (s.grant k).core i = s.core i) ∧
    ((∀ j, j < s.nCores → j ≠ k → s.bits j a ≠ some .modified) →
      (∀ j, j < s.nCores → j ≠ k → s.bits j a = some .shared →
        (∀ i, i < j → i ≠ k → s.bits i a ≠ some .shared) →
        (s.grant k).txn = some { owner := k, cmd := .busRd, addr := a, source := .cacheSupply (s.lineData j a) } ∧
        (s.grant k).memop = none ∧ (s.grant k).cores = s.cores) ∧
      ((∀ j, j < s.nCores → j ≠ k → s.bits j a = none) →
        (s.grant k).txn = some { owner := k, cmd := .busRd, addr := a, source := .memRead } ∧
        (s.grant k).memop = some { kind := .read, addr := a, remaining := s.cfg.memLatency } ∧
        (s.grant k).core k =
          { s.core k with cache := { (s.core k).cache with memReads := (s.core k).cache.memReads + 1 } } ∧
        ∀ i, i ≠ k → (s.grant k).core i = s.core i)) ∧
    SameBesideBus s (s.grant k) ∧
    ∀ t d, s.Shaped → (s.grant k).txn = some t → ((s.grant k).complete t d).bits k a = some .shared

/-- The grant of a BusRdX (R147): every other core's copy is invalidated; the data comes from the Modified holder, else the least Shared holder, read before the
invalidation, else from memory; memory is not written, nothing else of any core changes, and the completion installs the line as Modified. That all of this happens in the
instant of the grant, the transaction record and the completion are D19 (R145, R151). -/
def Obligations.BusRdXGrant : Prop :=
  ∀ (s : State) (k : Nat) (a : Word), k < s.nCores → (s.core k).pend = some { cmd := .busRdX, addr := a } →
    s.memop = none → s.Exclusive →
    (∀ j, j ≠ k → OnlyLineState s.cfg.indexBits a none (s.core j) ((s.grant k).core j)) ∧
    (∀ j, j < s.nCores → j ≠ k → s.bits j a = some .modified →
      (s.grant k).txn = some { owner := k, cmd := .busRdX, addr := a, source := .cacheSupply (s.lineData j a) } ∧
      (s.grant k).memop = none ∧ (s.grant k).core k = s.core k) ∧
    ((∀ j, j < s.nCores → j ≠ k → s.bits j a ≠ some .modified) →
      (∀ j, j < s.nCores → j ≠ k → s.bits j a = some .shared →
        (∀ i, i < j → i ≠ k → s.bits i a ≠ some .shared) →
        (s.grant k).txn = some { owner := k, cmd := .busRdX, addr := a, source := .cacheSupply (s.lineData j a) } ∧
        (s.grant k).memop = none ∧ (s.grant k).core k = s.core k) ∧
      ((∀ j, j < s.nCores → j ≠ k → s.bits j a = none) →
        (s.grant k).txn = some { owner := k, cmd := .busRdX, addr := a, source := .memRead } ∧
        (s.grant k).memop = some { kind := .read, addr := a, remaining := s.cfg.memLatency } ∧
        (s.grant k).core k =
          { s.core k with cache := { (s.core k).cache with memReads := (s.core k).cache.memReads + 1 } })) ∧
    SameBesideBus s (s.grant k) ∧
    ∀ t d, s.Shaped → (s.grant k).txn = some t → ((s.grant k).complete t d).bits k a = some .modified

/-- The bus tick completes the transaction in flight with its data or grants the least waiting request, never both, and a completion installs the line, Shared after
a BusRd and Modified after a BusRdX, empties the request, unfreezes the core and frees the bus, and changes nothing else but the event log: no other line of the owner, no other
core, no word of memory (D19). -/
def Obligations.BusTickCompletesOrGrants : Prop :=
  ∀ (s : State) (r : MemResult), s.Shaped →
    (∀ t d, s.txn = some t → t.owner < s.nCores →
      (t.source = .cacheSupply d ∨ (t.source = .memRead ∧ r = .readCompleted ∧ d = s.memStaged) ∨
        (t.source = .flush d ∧ r = .writeCompleted)) →
      (s.busTick r).txn = none ∧ (s.busTick r).memop = s.memop ∧ SameBesideBus s (s.busTick r) ∧
      (∀ n, n ≠ lineIndex s.cfg.indexBits t.addr →
        ((s.busTick r).core t.owner).cache.lines[n]? = (s.core t.owner).cache.lines[n]?) ∧
      (∀ b, lineIndex s.cfg.indexBits b ≠ lineIndex s.cfg.indexBits t.addr →
        (s.busTick r).bits t.owner b = s.bits t.owner b ∧ (s.busTick r).lineData t.owner b = s.lineData t.owner b) ∧
      (s.busTick r).bits t.owner t.addr = some (if t.cmd = .busRdX then .modified else .shared) ∧
      (s.busTick r).lineData t.owner t.addr = d ∧
      (s.busTick r).core t.owner =
        { s.core t.owner with
          cache := { (s.core t.owner).cache with lines := ((s.busTick r).core t.owner).cache.lines }
          pend := none, stalled := {}, stallNext := {} } ∧
      ∀ j, j ≠ t.owner → (s.busTick r).core j = s.core j) ∧
    (∀ t, s.txn = some t →
      ((t.source = .memRead ∧ r ≠ .readCompleted) ∨ ((∃ d, t.source = .flush d) ∧ r ≠ .writeCompleted)) →
      s.busTick r = s) ∧
    (s.txn = none → (∀ j, j < s.nCores → (s.core j).pend = none) → s.busTick r = s) ∧
    (∀ j q, s.txn = none → j < s.nCores → (s.core j).pend = some q → (∀ i, i < j → (s.core i).pend = none) →
      s.busTick r = s.grant j ∧
        ∃ src, (s.busTick r).txn = some { owner := j, cmd := q.cmd, addr := q.addr, source := src })

/-- `setWatch` marks the one entry Watched, whatever it held, and changes no other; and no step clears an entry back to NotWatched (R156). -/
def Obligations.SetWatchMarksOneEntry : Prop :=
  ∀ (s : State) (j : Nat) (b : Word), s.Shaped →
    (∀ (k : Nat) (a : Word), k < s.nCores →
      (s.setWatch k a).watchOf j b = if j = k ∧ b = a then .watched else s.watchOf j b) ∧
    ∀ t, step s = .next t → s.watchOf j b ≠ .notWatched → t.watchOf j b ≠ .notWatched

/-- `checkAndConsume` fails exactly when core k's own entry is attributed to another core, and attributes every Watched entry of the address to k whether or not it succeeds;
a second call then succeeds when the first did (D21, C7). -/
def Obligations.CheckAndConsumeOutcome : Prop :=
  ∀ (s : State) (k : Nat) (a : Word), s.Shaped → k < s.nCores →
    ((s.checkAndConsume k a).1 = false ↔ ∃ j, j ≠ k ∧ s.watchOf k a = .succeededFor j) ∧
    WatchesConsumed s (s.checkAndConsume k a).2 k a ∧
    ((s.checkAndConsume k a).1 = true → ((s.checkAndConsume k a).2.checkAndConsume k a).1 = true) ∧
    ∀ j, j < s.nCores → j ≠ k → s.watchOf j a = .watched → ((s.checkAndConsume k a).2.checkAndConsume j a).1 = false

/-- The watch table is changed by nothing but an LL or SC in Execute: no load, store, cache operation, bus transaction or snoop writes it (R155). -/
def Obligations.OnlyLlAndScTouchTheWatchTable : Prop :=
  ∀ s t : State, step s = .next t →
    (∀ k rd rs rt, s.turn = .stage k .execute →
      (s.slot k .execute).content ≠ .instr (.ll rd rs rt) ∧ (s.slot k .execute).content ≠ .instr (.sc rd rs rt)) →
    ∀ j, (t.core j).watch = (s.core j).watch

/-- The bus reports one event for each grant and one for each completion, with tick, owner, command, address and path, and none else: the transaction register changes in no other
way (R154). That the events are a field of State, appended to and never dropped, is the model's choice (log 12). -/
def Obligations.BusEventsLogTheTransactions : Prop :=
  ∀ s t : State, step s = .next t →
    (t.txn = s.txn ∧ t.events = s.events) ∨
    (∃ x, s.txn = none ∧ t.txn = some x ∧
      t.events = s.events ++
        [{ kind := .granted, tick := s.cycle, owner := x.owner, cmd := x.cmd, addr := x.addr, path := x.source.path }]) ∨
    (∃ x, s.txn = some x ∧ t.txn = none ∧
      t.events = s.events ++
        [{ kind := .completed, tick := s.cycle, owner := x.owner, cmd := x.cmd, addr := x.addr, path := x.source.path }])

/-! ## The memory unit -/

/-- `beginRead` and `beginWrite` answer Busy and change nothing while an operation is outstanding, and otherwise record the operation with the latency and do not touch
`mem` (R159). -/
def Obligations.BeginIsRejectedWhileBusy : Prop :=
  ∀ (s : State) (a d : Word),
    (s.memop ≠ none → s.beginRead a = (false, s) ∧ s.beginWrite a d = (false, s)) ∧
    (s.memop = none →
      s.beginRead a = (true, { s with memop := some { kind := .read, addr := a, remaining := s.cfg.memLatency } }) ∧
      s.beginWrite a d =
        (true, { s with memop := some { kind := .write d, addr := a, remaining := s.cfg.memLatency } }))

/-- An operation begun completes in exactly MEM_LATENCY memory ticks: every earlier one reports NoOp and leaves `mem` and `mem_staged`; the last stages the word of a read, or writes the
word of a write and no other (D22). -/
def Obligations.MemoryLatencyIsExact : Prop :=
  ∀ (s : State) (a d : Word) (n : Nat), s.memop = none → s.Shaped → s.cfg.memLatency = n + 1 →
    (∀ (kind : MemOpKind) (m : Nat), m < n →
      ((fun u : State => u.memTick.2)^[m] (s.beginMemOp kind a).2).memTick.1 = .noOp ∧
      ((fun u : State => u.memTick.2)^[m + 1] (s.beginMemOp kind a).2).mem = s.mem ∧
      ((fun u : State => u.memTick.2)^[m + 1] (s.beginMemOp kind a).2).memStaged = s.memStaged) ∧
    ((fun u : State => u.memTick.2)^[n] (s.beginRead a).2).memTick =
      (.readCompleted, { s with memStaged := s.mem.read a.toNat }) ∧
    ((fun u : State => u.memTick.2)^[n] (s.beginWrite a d).2).memTick.1 = .writeCompleted ∧
    ((fun u : State => u.memTick.2)^[n] (s.beginWrite a d).2).memTick.2.memop = none ∧
    ∀ b, ((fun u : State => u.memTick.2)^[n] (s.beginWrite a d).2).memTick.2.mem.read b =
      if b = a.toNat then d else s.mem.read b

/-! ## Invariants of every step -/

/-- Registers 0 and 1 hold 0 and no deferred write names them: every step keeps it (R18 for register 0; for register 1 the spec's "[derived]" in R19). -/
def Obligations.StepKeepsHardWiredRegisters : Prop :=
  ∀ s t : State, s.HardWired → step s = .next t → t.HardWired

/-- The memory and the watch tables keep their canonical form and every cache its N_LINES lines (log 8, R31). -/
def Obligations.StepKeepsShape : Prop :=
  ∀ s t : State, s.Shaped → step s = .next t → t.Shaped

/-- Every slot and every program keeps holding legal records only, and no program becomes empty (R168). -/
def Obligations.StepKeepsLegalRecords : Prop :=
  ∀ s t : State, s.Legal → step s = .next t → t.Legal

/-- With legal records no step raises a runtime fatal error and none is refused: the errors of causes 2, 3 and 4 are unreachable (R169, D11), and what can stop the machine is
FetchFault, AddressFault and ShiftFault. -/
def Obligations.LegalProgramsMeetNoRuntimeFatal : Prop :=
  ∀ s : State, s.Legal → (∀ e, step s = .fault e → e.runtimeFatal = false) ∧ ∀ e, step s ≠ .refused e

/-- A core stays frozen exactly while it has a request pending, the transaction in flight is its owner's pending request, the hazard countdown stays in 0 .. 3, and `branch_taken` is set
only between Decode and Fetch (R26, R28, R29; D14, D15, D19). -/
def Obligations.StepKeepsControlState : Prop :=
  ∀ s t : State, s.Controlled → step s = .next t → t.Controlled

/-- The coherence invariant is kept by every step: at most one Modified copy and none beside it, Shared copies clean, and the memory's operation the one that the transaction in
flight waits for (R50; its (c) and (d) are the spec's "[derived]"). -/
def Obligations.StepKeepsCoherence : Prop :=
  ∀ s t : State, s.Shaped → s.Coherent → step s = .next t → t.Coherent

/-- What the coherence invariant says in the words of R50 (b), (c), (d), and of R150: the memory is idle whenever a grant can be made. -/
def Obligations.CoherenceInTheSpecsWords : Prop :=
  ∀ s : State, s.Coherent →
    (∀ j k a, s.bits j a = some .modified → s.bits k a = some .modified → j = k) ∧
    (∀ j k a, j ≠ k → s.bits j a = some .modified → s.bits k a = none) ∧
    (∀ j k a, s.bits j a = some .shared → s.bits k a = some .shared → s.lineData j a = s.lineData k a) ∧
    (s.txn = none → s.memop = none ∧ ∀ k a, s.bits k a = some .shared → s.lineData k a = s.mem.read a.toNat)

/-- The machine as it is booted, with any parameters, legal programs and a memory in canonical form, meets every invariant, and the constraints of R9 when its parameters do (R185; the values that R39 leaves unspecified do not
matter: log 5, log 6). -/
def Obligations.BootMeetsTheInvariants : Prop :=
  ∀ (c : Config) (programs : List (List Word)) (image : Memory), image.wf = true →
    (∀ p ∈ programs, ProgramLegal p) →
    (c.wf = true → programs ≠ [] → (State.boot c programs image).parametersOk = true) ∧
    (State.boot c programs image).HardWired ∧ (State.boot c programs image).Shaped ∧
    (State.boot c programs image).Legal ∧ (State.boot c programs image).Controlled ∧
    (State.boot c programs image).Coherent ∧
    ∀ k, k < programs.length → ∀ r : Reg, (State.boot c programs image).reg k r = 0

/-! ## Whole-machine rules -/

/-- No step writes an instruction memory, the number of cores or a parameter (R23), so the constraints of R9 hold after it as before. -/
def Obligations.ProgramsAreReadOnly : Prop :=
  ∀ s t : State, step s = .next t →
    t.cfg = s.cfg ∧ t.nCores = s.nCores ∧ (∀ k, (t.core k).imem = (s.core k).imem) ∧ t.parametersOk = s.parametersOk

/-- A stage of one core changes, of another core, line states, its count of flushes and its watch entries alone: "Only the bus mutates another core's cache line state; a pipeline
only mutates its own" (R40, D19, D21). -/
def Obligations.PipelinesAreIsolated : Prop :=
  ∀ (s t : State) (k j : Nat) (st : Stage), s.turn = .stage k st → step s = .next t → j ≠ k →
    (t.core j).cache.lines.map (fun l => (l.tag, l.data)) = (s.core j).cache.lines.map (fun l => (l.tag, l.data)) ∧
    t.core j =
      { s.core j with
        cache :=
          { (s.core j).cache with lines := (t.core j).cache.lines, memWrites := (t.core j).cache.memWrites }
        watch := (t.core j).watch }

/-- A fault is raised by the stage R167 names, of the core that has the turn, and reports that core and the current tick (D25). -/
def Obligations.FaultsComeFromTheirStage : Prop :=
  ∀ (s : State) (e : Fault), step s = .fault e →
    ∃ k, s.turn = .stage k e.stage ∧ e.stop.core = k ∧ e.stop.cycle = s.cycle ∧ e.stop.left.mem = s.mem ∧
      ∀ j, (e.stop.left.core j).regs = (s.core j).regs

/-- The cycle counter counts the ticks: it moves at a tick's start and nowhere else, and not after the run has ended (R36, R164). -/
def Obligations.CycleCountsTicks : Prop :=
  ∀ s t : State, step s = .next t →
    t.cycle = if s.turn = .tickStart ∧ s.allDrained = false then s.cycle + 1 else s.cycle

/-- A machine one of whose programs is empty or holds an illegal word does not start, with cause code 1, and a machine whose programs are legal is not kept from starting (R168,
D25). That the check is made by the step at a tick's start, at every tick, is the model's choice (log 3), and so is which word and reason are reported (log 13). -/
def Obligations.RejectedProgramDoesNotStart : Prop :=
  ∀ s : State, s.turn = .tickStart → s.allDrained = false →
    ((∃ c ∈ s.cores, c.imem = [] ∨ ∃ w ∈ c.imem, ∀ i, decodeWord w ≠ .ok i) →
      ∃ k n e, step s = .refused (.loadFatal k n e) ∧ (Refusal.loadFatal k n e).code = some 1 ∧ k < s.nCores ∧
        ((e = .emptyProgram ∧ n = 0 ∧ (s.core k).imem = []) ∨
          ∃ w x, e = .illegalWord x ∧ (s.core k).imem[n]? = some w ∧ decodeWord w = .error x)) ∧
    ((∀ c ∈ s.cores, ProgramLegal c.imem) →
      step s = .next ({ s with cycle := s.cycle + 1 }.give (.cycleStart 0)))

/-- The run ends when every core has drained: from then on the machine stays as it is (R164, log 9). -/
def Obligations.EndedRunStays : Prop :=
  ∀ (s : State) (n : Nat), s.turn = .tickStart → s.allDrained = true →
    Host.Core.run Sys2Proof.core n s = .next s

/-- The steps of one tick are the global tick of R163, whether it ends in a next state or in a stop (D1; one action a step: log 2). -/
def Obligations.StepsOfATickAreTheGlobalTick : Prop :=
  ∀ s : State, s.turn = .tickStart → s.allDrained = false → s.loadProblem = none →
    Host.Core.run Sys2Proof.core (tickLength s) s = globalTick s
end

