-- ==== Sys2Proof/Laws/State.lean ====
section
/-! SUPPORT. One lemma a field an update, so that no proof unfolds a record update of the state, a core or a slot table. -/

namespace Sys2Proof.Machine

/-! ## Cores -/

@[simp] theorem State.nCores_setCore (s : State) (k : Nat) (c : Core) : (s.setCore k c).nCores = s.nCores := by
  simp [State.nCores, State.setCore]

@[simp] theorem State.nCores_modCore (s : State) (k : Nat) (f : Core → Core) : (s.modCore k f).nCores = s.nCores := by
  simp [State.modCore]

theorem State.core_of_le (s : State) (k : Nat) (h : s.nCores ≤ k) : s.core k = Core.reset s.cfg [] := by
  simpa [State.core, List.getD_eq_getElem?_getD, State.nCores] using
    congrArg (fun o => o.getD (Core.reset s.cfg [])) (List.getElem?_eq_none h)

@[simp] theorem State.core_setCore_self (s : State) (k : Nat) (c : Core) (h : k < s.nCores) : (s.setCore k c).core k = c := by
  have h' : k < s.cores.length := h
  simp [State.core, State.setCore, List.getD_eq_getElem?_getD, h']

@[simp] theorem State.core_setCore_ne (s : State) (j k : Nat) (c : Core) (h : j ≠ k) : (s.setCore k c).core j = s.core j := by
  simp [State.core, State.setCore, List.getD_eq_getElem?_getD, List.getElem?_set_ne (Ne.symm h)]

@[simp] theorem State.setCore_setCore (s : State) (k : Nat) (c d : Core) : (s.setCore k c).setCore k d = s.setCore k d := by
  simp [State.setCore]

@[simp] theorem State.core_modCore_self (s : State) (k : Nat) (f : Core → Core) (h : k < s.nCores) :
    (s.modCore k f).core k = f (s.core k) := by
  simp [State.modCore, h]

@[simp] theorem State.core_modCore_ne (s : State) (j k : Nat) (f : Core → Core) (h : j ≠ k) :
    (s.modCore k f).core j = s.core j := by
  simp [State.modCore, h]

/-- Past the last core nothing can be changed (R142). -/
theorem State.modCore_of_le (s : State) (k : Nat) (f : Core → Core) (h : s.nCores ≤ k) : s.modCore k f = s := by
  have h' : s.cores.length ≤ k := h
  simp [State.modCore, State.setCore, List.set_eq_of_length_le h']

theorem State.modCore_modCore (s : State) (k : Nat) (f g : Core → Core) :
    (s.modCore k f).modCore k g = s.modCore k (g ∘ f) := by
  by_cases h : k < s.nCores
  · rw [State.modCore, State.core_modCore_self s k f h]
    simp [State.modCore, Function.comp]
  · have h' : s.nCores ≤ k := Nat.le_of_not_lt h
    rw [State.modCore_of_le s k f h', State.modCore_of_le s k g h', State.modCore_of_le s k (g ∘ f) h']

/-- What a core is after a change to core k, for every core the machine has. -/
theorem State.core_modCore (s : State) (j k : Nat) (f : Core → Core) (h : k < s.nCores) :
    (s.modCore k f).core j = if j = k then f (s.core k) else s.core j := by
  by_cases hj : j = k
  · subst hj
    simp [h]
  · simp [hj]

/-- The cores of the list are the cores 0 .. N_CORES-1. -/
theorem State.mem_cores (s : State) (c : Core) : c ∈ s.cores ↔ ∃ k, k < s.nCores ∧ s.core k = c := by
  constructor
  · intro h
    obtain ⟨k, hk, rfl⟩ := List.getElem_of_mem h
    exact ⟨k, hk, by simp [State.core, List.getD_eq_getElem?_getD, hk]⟩
  · rintro ⟨k, hk, rfl⟩
    have hk' : k < s.cores.length := hk
    simp [State.core, List.getD_eq_getElem?_getD, hk']

/-! ## The shared fields under a change to a core -/

@[simp] theorem State.cfg_setCore (s : State) (k : Nat) (c : Core) : (s.setCore k c).cfg = s.cfg := rfl
@[simp] theorem State.txn_setCore (s : State) (k : Nat) (c : Core) : (s.setCore k c).txn = s.txn := rfl
@[simp] theorem State.mem_setCore (s : State) (k : Nat) (c : Core) : (s.setCore k c).mem = s.mem := rfl
@[simp] theorem State.memop_setCore (s : State) (k : Nat) (c : Core) : (s.setCore k c).memop = s.memop := rfl
@[simp] theorem State.memStaged_setCore (s : State) (k : Nat) (c : Core) : (s.setCore k c).memStaged = s.memStaged := rfl
@[simp] theorem State.cycle_setCore (s : State) (k : Nat) (c : Core) : (s.setCore k c).cycle = s.cycle := rfl
@[simp] theorem State.turn_setCore (s : State) (k : Nat) (c : Core) : (s.setCore k c).turn = s.turn := rfl
@[simp] theorem State.events_setCore (s : State) (k : Nat) (c : Core) : (s.setCore k c).events = s.events := rfl

@[simp] theorem State.cfg_modCore (s : State) (k : Nat) (f : Core → Core) : (s.modCore k f).cfg = s.cfg := rfl
@[simp] theorem State.txn_modCore (s : State) (k : Nat) (f : Core → Core) : (s.modCore k f).txn = s.txn := rfl
@[simp] theorem State.mem_modCore (s : State) (k : Nat) (f : Core → Core) : (s.modCore k f).mem = s.mem := rfl
@[simp] theorem State.memop_modCore (s : State) (k : Nat) (f : Core → Core) : (s.modCore k f).memop = s.memop := rfl
@[simp] theorem State.memStaged_modCore (s : State) (k : Nat) (f : Core → Core) : (s.modCore k f).memStaged = s.memStaged := rfl
@[simp] theorem State.cycle_modCore (s : State) (k : Nat) (f : Core → Core) : (s.modCore k f).cycle = s.cycle := rfl
@[simp] theorem State.turn_modCore (s : State) (k : Nat) (f : Core → Core) : (s.modCore k f).turn = s.turn := rfl
@[simp] theorem State.events_modCore (s : State) (k : Nat) (f : Core → Core) : (s.modCore k f).events = s.events := rfl

@[simp] theorem State.cfg_setSlot (s : State) (k : Nat) (st : Stage) (v : Slot) : (s.setSlot k st v).cfg = s.cfg := rfl
@[simp] theorem State.txn_setSlot (s : State) (k : Nat) (st : Stage) (v : Slot) : (s.setSlot k st v).txn = s.txn := rfl
@[simp] theorem State.mem_setSlot (s : State) (k : Nat) (st : Stage) (v : Slot) : (s.setSlot k st v).mem = s.mem := rfl
@[simp] theorem State.memop_setSlot (s : State) (k : Nat) (st : Stage) (v : Slot) : (s.setSlot k st v).memop = s.memop := rfl
@[simp] theorem State.memStaged_setSlot (s : State) (k : Nat) (st : Stage) (v : Slot) : (s.setSlot k st v).memStaged = s.memStaged := rfl
@[simp] theorem State.cycle_setSlot (s : State) (k : Nat) (st : Stage) (v : Slot) : (s.setSlot k st v).cycle = s.cycle := rfl
@[simp] theorem State.turn_setSlot (s : State) (k : Nat) (st : Stage) (v : Slot) : (s.setSlot k st v).turn = s.turn := rfl
@[simp] theorem State.events_setSlot (s : State) (k : Nat) (st : Stage) (v : Slot) : (s.setSlot k st v).events = s.events := rfl

@[simp] theorem State.cfg_pass (s : State) (k : Nat) (st : Stage) (v : Slot) : (s.pass k st v).cfg = s.cfg := rfl
@[simp] theorem State.txn_pass (s : State) (k : Nat) (st : Stage) (v : Slot) : (s.pass k st v).txn = s.txn := rfl
@[simp] theorem State.mem_pass (s : State) (k : Nat) (st : Stage) (v : Slot) : (s.pass k st v).mem = s.mem := rfl
@[simp] theorem State.memop_pass (s : State) (k : Nat) (st : Stage) (v : Slot) : (s.pass k st v).memop = s.memop := rfl
@[simp] theorem State.memStaged_pass (s : State) (k : Nat) (st : Stage) (v : Slot) : (s.pass k st v).memStaged = s.memStaged := rfl
@[simp] theorem State.cycle_pass (s : State) (k : Nat) (st : Stage) (v : Slot) : (s.pass k st v).cycle = s.cycle := rfl
@[simp] theorem State.turn_pass (s : State) (k : Nat) (st : Stage) (v : Slot) : (s.pass k st v).turn = s.turn := rfl
@[simp] theorem State.events_pass (s : State) (k : Nat) (st : Stage) (v : Slot) : (s.pass k st v).events = s.events := rfl

@[simp] theorem State.cfg_applyDeferred (s : State) (k : Nat) : (s.applyDeferred k).cfg = s.cfg := rfl
@[simp] theorem State.txn_applyDeferred (s : State) (k : Nat) : (s.applyDeferred k).txn = s.txn := rfl
@[simp] theorem State.mem_applyDeferred (s : State) (k : Nat) : (s.applyDeferred k).mem = s.mem := rfl
@[simp] theorem State.memop_applyDeferred (s : State) (k : Nat) : (s.applyDeferred k).memop = s.memop := rfl
@[simp] theorem State.memStaged_applyDeferred (s : State) (k : Nat) : (s.applyDeferred k).memStaged = s.memStaged := rfl
@[simp] theorem State.cycle_applyDeferred (s : State) (k : Nat) : (s.applyDeferred k).cycle = s.cycle := rfl
@[simp] theorem State.turn_applyDeferred (s : State) (k : Nat) : (s.applyDeferred k).turn = s.turn := rfl
@[simp] theorem State.events_applyDeferred (s : State) (k : Nat) : (s.applyDeferred k).events = s.events := rfl

@[simp] theorem State.cfg_redirect (s : State) (k : Nat) (a : Word) : (s.redirect k a).cfg = s.cfg := rfl
@[simp] theorem State.txn_redirect (s : State) (k : Nat) (a : Word) : (s.redirect k a).txn = s.txn := rfl
@[simp] theorem State.mem_redirect (s : State) (k : Nat) (a : Word) : (s.redirect k a).mem = s.mem := rfl
@[simp] theorem State.memop_redirect (s : State) (k : Nat) (a : Word) : (s.redirect k a).memop = s.memop := rfl
@[simp] theorem State.memStaged_redirect (s : State) (k : Nat) (a : Word) : (s.redirect k a).memStaged = s.memStaged := rfl
@[simp] theorem State.cycle_redirect (s : State) (k : Nat) (a : Word) : (s.redirect k a).cycle = s.cycle := rfl
@[simp] theorem State.turn_redirect (s : State) (k : Nat) (a : Word) : (s.redirect k a).turn = s.turn := rfl
@[simp] theorem State.events_redirect (s : State) (k : Nat) (a : Word) : (s.redirect k a).events = s.events := rfl

@[simp] theorem State.cfg_modCache (s : State) (k : Nat) (f : Cache → Cache) : (s.modCache k f).cfg = s.cfg := rfl
@[simp] theorem State.txn_modCache (s : State) (k : Nat) (f : Cache → Cache) : (s.modCache k f).txn = s.txn := rfl
@[simp] theorem State.mem_modCache (s : State) (k : Nat) (f : Cache → Cache) : (s.modCache k f).mem = s.mem := rfl
@[simp] theorem State.memop_modCache (s : State) (k : Nat) (f : Cache → Cache) : (s.modCache k f).memop = s.memop := rfl
@[simp] theorem State.memStaged_modCache (s : State) (k : Nat) (f : Cache → Cache) : (s.modCache k f).memStaged = s.memStaged := rfl
@[simp] theorem State.cycle_modCache (s : State) (k : Nat) (f : Cache → Cache) : (s.modCache k f).cycle = s.cycle := rfl
@[simp] theorem State.turn_modCache (s : State) (k : Nat) (f : Cache → Cache) : (s.modCache k f).turn = s.turn := rfl
@[simp] theorem State.events_modCache (s : State) (k : Nat) (f : Cache → Cache) : (s.modCache k f).events = s.events := rfl

@[simp] theorem State.cfg_setWatch (s : State) (k : Nat) (a : Word) : (s.setWatch k a).cfg = s.cfg := rfl
@[simp] theorem State.txn_setWatch (s : State) (k : Nat) (a : Word) : (s.setWatch k a).txn = s.txn := rfl
@[simp] theorem State.mem_setWatch (s : State) (k : Nat) (a : Word) : (s.setWatch k a).mem = s.mem := rfl
@[simp] theorem State.memop_setWatch (s : State) (k : Nat) (a : Word) : (s.setWatch k a).memop = s.memop := rfl
@[simp] theorem State.memStaged_setWatch (s : State) (k : Nat) (a : Word) : (s.setWatch k a).memStaged = s.memStaged := rfl
@[simp] theorem State.cycle_setWatch (s : State) (k : Nat) (a : Word) : (s.setWatch k a).cycle = s.cycle := rfl
@[simp] theorem State.turn_setWatch (s : State) (k : Nat) (a : Word) : (s.setWatch k a).turn = s.turn := rfl
@[simp] theorem State.events_setWatch (s : State) (k : Nat) (a : Word) : (s.setWatch k a).events = s.events := rfl

@[simp] theorem State.cfg_consumeWatches (s : State) (k : Nat) (a : Word) : (s.consumeWatches k a).cfg = s.cfg := rfl
@[simp] theorem State.txn_consumeWatches (s : State) (k : Nat) (a : Word) : (s.consumeWatches k a).txn = s.txn := rfl
@[simp] theorem State.mem_consumeWatches (s : State) (k : Nat) (a : Word) : (s.consumeWatches k a).mem = s.mem := rfl
@[simp] theorem State.memop_consumeWatches (s : State) (k : Nat) (a : Word) : (s.consumeWatches k a).memop = s.memop := rfl
@[simp] theorem State.memStaged_consumeWatches (s : State) (k : Nat) (a : Word) : (s.consumeWatches k a).memStaged = s.memStaged := rfl
@[simp] theorem State.cycle_consumeWatches (s : State) (k : Nat) (a : Word) : (s.consumeWatches k a).cycle = s.cycle := rfl
@[simp] theorem State.turn_consumeWatches (s : State) (k : Nat) (a : Word) : (s.consumeWatches k a).turn = s.turn := rfl
@[simp] theorem State.events_consumeWatches (s : State) (k : Nat) (a : Word) : (s.consumeWatches k a).events = s.events := rfl

@[simp] theorem State.cfg_invalidateOthers (s : State) (k : Nat) (a : Word) : (s.invalidateOthers k a).cfg = s.cfg := rfl
@[simp] theorem State.txn_invalidateOthers (s : State) (k : Nat) (a : Word) : (s.invalidateOthers k a).txn = s.txn := rfl
@[simp] theorem State.mem_invalidateOthers (s : State) (k : Nat) (a : Word) : (s.invalidateOthers k a).mem = s.mem := rfl
@[simp] theorem State.memop_invalidateOthers (s : State) (k : Nat) (a : Word) : (s.invalidateOthers k a).memop = s.memop := rfl
@[simp] theorem State.memStaged_invalidateOthers (s : State) (k : Nat) (a : Word) : (s.invalidateOthers k a).memStaged = s.memStaged := rfl
@[simp] theorem State.cycle_invalidateOthers (s : State) (k : Nat) (a : Word) : (s.invalidateOthers k a).cycle = s.cycle := rfl
@[simp] theorem State.turn_invalidateOthers (s : State) (k : Nat) (a : Word) : (s.invalidateOthers k a).turn = s.turn := rfl
@[simp] theorem State.events_invalidateOthers (s : State) (k : Nat) (a : Word) : (s.invalidateOthers k a).events = s.events := rfl

@[simp] theorem State.cfg_recordWrite (s : State) (k : Nat) (d : Reg) (v : Word) : (s.recordWrite k d v).cfg = s.cfg := by
  unfold State.recordWrite; split <;> rfl
@[simp] theorem State.txn_recordWrite (s : State) (k : Nat) (d : Reg) (v : Word) : (s.recordWrite k d v).txn = s.txn := by
  unfold State.recordWrite; split <;> rfl
@[simp] theorem State.mem_recordWrite (s : State) (k : Nat) (d : Reg) (v : Word) : (s.recordWrite k d v).mem = s.mem := by
  unfold State.recordWrite; split <;> rfl
@[simp] theorem State.memop_recordWrite (s : State) (k : Nat) (d : Reg) (v : Word) : (s.recordWrite k d v).memop = s.memop := by
  unfold State.recordWrite; split <;> rfl
@[simp] theorem State.memStaged_recordWrite (s : State) (k : Nat) (d : Reg) (v : Word) : (s.recordWrite k d v).memStaged = s.memStaged := by
  unfold State.recordWrite; split <;> rfl
@[simp] theorem State.cycle_recordWrite (s : State) (k : Nat) (d : Reg) (v : Word) : (s.recordWrite k d v).cycle = s.cycle := by
  unfold State.recordWrite; split <;> rfl
@[simp] theorem State.turn_recordWrite (s : State) (k : Nat) (d : Reg) (v : Word) : (s.recordWrite k d v).turn = s.turn := by
  unfold State.recordWrite; split <;> rfl
@[simp] theorem State.events_recordWrite (s : State) (k : Nat) (d : Reg) (v : Word) : (s.recordWrite k d v).events = s.events := by
  unfold State.recordWrite; split <;> rfl

/-! ## Giving the turn -/

@[simp] theorem State.cfg_give (s : State) (t : Turn) : (s.give t).cfg = s.cfg := rfl
@[simp] theorem State.txn_give (s : State) (t : Turn) : (s.give t).txn = s.txn := rfl
@[simp] theorem State.mem_give (s : State) (t : Turn) : (s.give t).mem = s.mem := rfl
@[simp] theorem State.memop_give (s : State) (t : Turn) : (s.give t).memop = s.memop := rfl
@[simp] theorem State.memStaged_give (s : State) (t : Turn) : (s.give t).memStaged = s.memStaged := rfl
@[simp] theorem State.cycle_give (s : State) (t : Turn) : (s.give t).cycle = s.cycle := rfl
@[simp] theorem State.turn_give (s : State) (t : Turn) : (s.give t).turn = t := rfl
@[simp] theorem State.events_give (s : State) (t : Turn) : (s.give t).events = s.events := rfl
@[simp] theorem State.cores_give (s : State) (t : Turn) : (s.give t).cores = s.cores := rfl
@[simp] theorem State.nCores_give (s : State) (t : Turn) : (s.give t).nCores = s.nCores := rfl
@[simp] theorem State.core_give (s : State) (t : Turn) (k : Nat) : (s.give t).core k = s.core k := rfl
@[simp] theorem State.slot_give (s : State) (t : Turn) (k : Nat) (st : Stage) : (s.give t).slot k st = s.slot k st := rfl
@[simp] theorem State.reg_give (s : State) (t : Turn) (k : Nat) (r : Reg) : (s.give t).reg k r = s.reg k r := rfl
@[simp] theorem State.bits_give (s : State) (t : Turn) (k : Nat) (a : Word) : (s.give t).bits k a = s.bits k a := rfl
@[simp] theorem State.lineData_give (s : State) (t : Turn) (k : Nat) (a : Word) : (s.give t).lineData k a = s.lineData k a := rfl
@[simp] theorem State.watchOf_give (s : State) (t : Turn) (k : Nat) (a : Word) : (s.give t).watchOf k a = s.watchOf k a := rfl
@[simp] theorem State.give_give (s : State) (t u : Turn) : (s.give t).give u = s.give u := rfl
@[simp] theorem State.give_self (s : State) : s.give s.turn = s := rfl

/-! ## Slots -/

@[simp] theorem Slots.get_set_self (x : Slots) (st : Stage) (v : Slot) : (x.set st v).get st = v := by
  cases st <;> rfl

@[simp] theorem Slots.get_set_ne (x : Slots) (st u : Stage) (v : Slot) (h : u ≠ st) : (x.set st v).get u = x.get u := by
  cases st <;> cases u <;> first | rfl | exact absurd rfl h

@[simp] theorem State.slot_setSlot_self (s : State) (k : Nat) (st : Stage) (v : Slot) (h : k < s.nCores) :
    (s.setSlot k st v).slot k st = v := by
  simp [State.slot, State.setSlot, h]

@[simp] theorem State.slot_setSlot_ne (s : State) (k : Nat) (st u : Stage) (v : Slot) (h : u ≠ st) :
    (s.setSlot k st v).slot k u = s.slot k u := by
  by_cases hk : k < s.nCores
  · simp [State.slot, State.setSlot, hk, h]
  · rw [State.setSlot, State.modCore_of_le _ _ _ (Nat.le_of_not_lt hk)]

/-- What a stage's hand-over does to the core: the next stage's slot and nothing else (R114). -/
@[simp] theorem State.core_pass (s : State) (k : Nat) (st : Stage) (v : Slot) (h : k < s.nCores) :
    (s.pass k st v).core k = { s.core k with slots := (s.core k).slots.set st.next v } := by
  simp [State.pass, State.setSlot, h]

@[simp] theorem State.core_pass_ne (s : State) (j k : Nat) (st : Stage) (v : Slot) (h : j ≠ k) :
    (s.pass k st v).core j = s.core j := by
  simp [State.pass, State.setSlot, h]

@[simp] theorem State.nCores_pass (s : State) (k : Nat) (st : Stage) (v : Slot) : (s.pass k st v).nCores = s.nCores := by
  simp [State.pass, State.setSlot]

/-! ## The fields of a core under the machine's own changes -/

@[simp] theorem Core.regs_freeze (c : Core) : c.freeze.regs = c.regs := rfl
@[simp] theorem Core.pc_freeze (c : Core) : c.freeze.pc = c.pc := rfl
@[simp] theorem Core.imem_freeze (c : Core) : c.freeze.imem = c.imem := rfl
@[simp] theorem Core.slots_freeze (c : Core) : c.freeze.slots = c.slots := rfl
@[simp] theorem Core.occExecute_freeze (c : Core) : c.freeze.occExecute = c.occExecute := rfl
@[simp] theorem Core.occMemory_freeze (c : Core) : c.freeze.occMemory = c.occMemory := rfl
@[simp] theorem Core.occWriteBack_freeze (c : Core) : c.freeze.occWriteBack = c.occWriteBack := rfl
@[simp] theorem Core.dw_freeze (c : Core) : c.freeze.dw = c.dw := rfl
@[simp] theorem Core.hzCount_freeze (c : Core) : c.freeze.hzCount = c.hzCount := rfl
@[simp] theorem Core.hzHold_freeze (c : Core) : c.freeze.hzHold = c.hzHold := rfl
@[simp] theorem Core.branchTaken_freeze (c : Core) : c.freeze.branchTaken = c.branchTaken := rfl
@[simp] theorem Core.drained_freeze (c : Core) : c.freeze.drained = c.drained := rfl
@[simp] theorem Core.cache_freeze (c : Core) : c.freeze.cache = c.cache := rfl
@[simp] theorem Core.util_freeze (c : Core) : c.freeze.util = c.util := rfl
@[simp] theorem Core.pend_freeze (c : Core) : c.freeze.pend = c.pend := rfl
@[simp] theorem Core.watch_freeze (c : Core) : c.freeze.watch = c.watch := rfl

@[simp] theorem Core.regs_unfreeze (c : Core) : c.unfreeze.regs = c.regs := rfl
@[simp] theorem Core.pc_unfreeze (c : Core) : c.unfreeze.pc = c.pc := rfl
@[simp] theorem Core.imem_unfreeze (c : Core) : c.unfreeze.imem = c.imem := rfl
@[simp] theorem Core.slots_unfreeze (c : Core) : c.unfreeze.slots = c.slots := rfl
@[simp] theorem Core.occExecute_unfreeze (c : Core) : c.unfreeze.occExecute = c.occExecute := rfl
@[simp] theorem Core.occMemory_unfreeze (c : Core) : c.unfreeze.occMemory = c.occMemory := rfl
@[simp] theorem Core.occWriteBack_unfreeze (c : Core) : c.unfreeze.occWriteBack = c.occWriteBack := rfl
@[simp] theorem Core.dw_unfreeze (c : Core) : c.unfreeze.dw = c.dw := rfl
@[simp] theorem Core.hzCount_unfreeze (c : Core) : c.unfreeze.hzCount = c.hzCount := rfl
@[simp] theorem Core.hzHold_unfreeze (c : Core) : c.unfreeze.hzHold = c.hzHold := rfl
@[simp] theorem Core.branchTaken_unfreeze (c : Core) : c.unfreeze.branchTaken = c.branchTaken := rfl
@[simp] theorem Core.drained_unfreeze (c : Core) : c.unfreeze.drained = c.drained := rfl
@[simp] theorem Core.cache_unfreeze (c : Core) : c.unfreeze.cache = c.cache := rfl
@[simp] theorem Core.util_unfreeze (c : Core) : c.unfreeze.util = c.util := rfl
@[simp] theorem Core.pend_unfreeze (c : Core) : c.unfreeze.pend = c.pend := rfl
@[simp] theorem Core.watch_unfreeze (c : Core) : c.unfreeze.watch = c.watch := rfl

@[simp] theorem Core.regs_promoteStalls (c : Core) : c.promoteStalls.regs = c.regs := rfl
@[simp] theorem Core.pc_promoteStalls (c : Core) : c.promoteStalls.pc = c.pc := rfl
@[simp] theorem Core.imem_promoteStalls (c : Core) : c.promoteStalls.imem = c.imem := rfl
@[simp] theorem Core.slots_promoteStalls (c : Core) : c.promoteStalls.slots = c.slots := rfl
@[simp] theorem Core.occExecute_promoteStalls (c : Core) : c.promoteStalls.occExecute = c.occExecute := rfl
@[simp] theorem Core.occMemory_promoteStalls (c : Core) : c.promoteStalls.occMemory = c.occMemory := rfl
@[simp] theorem Core.occWriteBack_promoteStalls (c : Core) : c.promoteStalls.occWriteBack = c.occWriteBack := rfl
@[simp] theorem Core.dw_promoteStalls (c : Core) : c.promoteStalls.dw = c.dw := rfl
@[simp] theorem Core.hzCount_promoteStalls (c : Core) : c.promoteStalls.hzCount = c.hzCount := rfl
@[simp] theorem Core.hzHold_promoteStalls (c : Core) : c.promoteStalls.hzHold = c.hzHold := rfl
@[simp] theorem Core.branchTaken_promoteStalls (c : Core) : c.promoteStalls.branchTaken = c.branchTaken := rfl
@[simp] theorem Core.drained_promoteStalls (c : Core) : c.promoteStalls.drained = c.drained := rfl
@[simp] theorem Core.cache_promoteStalls (c : Core) : c.promoteStalls.cache = c.cache := rfl
@[simp] theorem Core.util_promoteStalls (c : Core) : c.promoteStalls.util = c.util := rfl
@[simp] theorem Core.pend_promoteStalls (c : Core) : c.promoteStalls.pend = c.pend := rfl
@[simp] theorem Core.watch_promoteStalls (c : Core) : c.promoteStalls.watch = c.watch := rfl

@[simp] theorem Core.regs_beginCycle (c : Core) : c.beginCycle.regs = c.regs := rfl
@[simp] theorem Core.pc_beginCycle (c : Core) : c.beginCycle.pc = c.pc := rfl
@[simp] theorem Core.imem_beginCycle (c : Core) : c.beginCycle.imem = c.imem := rfl
@[simp] theorem Core.slots_beginCycle (c : Core) : c.beginCycle.slots = c.slots := rfl
@[simp] theorem Core.dw_beginCycle (c : Core) : c.beginCycle.dw = c.dw := rfl
@[simp] theorem Core.hzCount_beginCycle (c : Core) : c.beginCycle.hzCount = c.hzCount := rfl
@[simp] theorem Core.hzHold_beginCycle (c : Core) : c.beginCycle.hzHold = c.hzHold := rfl
@[simp] theorem Core.branchTaken_beginCycle (c : Core) : c.beginCycle.branchTaken = c.branchTaken := rfl
@[simp] theorem Core.drained_beginCycle (c : Core) : c.beginCycle.drained = c.drained := rfl
@[simp] theorem Core.cache_beginCycle (c : Core) : c.beginCycle.cache = c.cache := rfl
@[simp] theorem Core.pend_beginCycle (c : Core) : c.beginCycle.pend = c.pend := rfl
@[simp] theorem Core.watch_beginCycle (c : Core) : c.beginCycle.watch = c.watch := rfl

@[simp] theorem Core.regs_holdDecode (c : Core) : c.holdDecode.regs = c.regs := rfl
@[simp] theorem Core.pc_holdDecode (c : Core) : c.holdDecode.pc = c.pc := rfl
@[simp] theorem Core.imem_holdDecode (c : Core) : c.holdDecode.imem = c.imem := rfl
@[simp] theorem Core.occExecute_holdDecode (c : Core) : c.holdDecode.occExecute = c.occExecute := rfl
@[simp] theorem Core.occMemory_holdDecode (c : Core) : c.holdDecode.occMemory = c.occMemory := rfl
@[simp] theorem Core.occWriteBack_holdDecode (c : Core) : c.holdDecode.occWriteBack = c.occWriteBack := rfl
@[simp] theorem Core.stalled_holdDecode (c : Core) : c.holdDecode.stalled = c.stalled := rfl
@[simp] theorem Core.stallNext_holdDecode (c : Core) : c.holdDecode.stallNext = c.stallNext := rfl
@[simp] theorem Core.dw_holdDecode (c : Core) : c.holdDecode.dw = c.dw := rfl
@[simp] theorem Core.branchTaken_holdDecode (c : Core) : c.holdDecode.branchTaken = c.branchTaken := rfl
@[simp] theorem Core.drained_holdDecode (c : Core) : c.holdDecode.drained = c.drained := rfl
@[simp] theorem Core.cache_holdDecode (c : Core) : c.holdDecode.cache = c.cache := rfl
@[simp] theorem Core.util_holdDecode (c : Core) : c.holdDecode.util = c.util := rfl
@[simp] theorem Core.pend_holdDecode (c : Core) : c.holdDecode.pend = c.pend := rfl
@[simp] theorem Core.watch_holdDecode (c : Core) : c.holdDecode.watch = c.watch := rfl

@[simp] theorem Core.regs_releaseDecode (c : Core) : c.releaseDecode.regs = c.regs := rfl
@[simp] theorem Core.pc_releaseDecode (c : Core) : c.releaseDecode.pc = c.pc := rfl
@[simp] theorem Core.imem_releaseDecode (c : Core) : c.releaseDecode.imem = c.imem := rfl
@[simp] theorem Core.slots_releaseDecode (c : Core) : c.releaseDecode.slots = c.slots := rfl
@[simp] theorem Core.occExecute_releaseDecode (c : Core) : c.releaseDecode.occExecute = c.occExecute := rfl
@[simp] theorem Core.occMemory_releaseDecode (c : Core) : c.releaseDecode.occMemory = c.occMemory := rfl
@[simp] theorem Core.occWriteBack_releaseDecode (c : Core) : c.releaseDecode.occWriteBack = c.occWriteBack := rfl
@[simp] theorem Core.stalled_releaseDecode (c : Core) : c.releaseDecode.stalled = c.stalled := rfl
@[simp] theorem Core.stallNext_releaseDecode (c : Core) : c.releaseDecode.stallNext = c.stallNext := rfl
@[simp] theorem Core.dw_releaseDecode (c : Core) : c.releaseDecode.dw = c.dw := rfl
@[simp] theorem Core.branchTaken_releaseDecode (c : Core) : c.releaseDecode.branchTaken = c.branchTaken := rfl
@[simp] theorem Core.drained_releaseDecode (c : Core) : c.releaseDecode.drained = c.drained := rfl
@[simp] theorem Core.cache_releaseDecode (c : Core) : c.releaseDecode.cache = c.cache := rfl
@[simp] theorem Core.util_releaseDecode (c : Core) : c.releaseDecode.util = c.util := rfl
@[simp] theorem Core.pend_releaseDecode (c : Core) : c.releaseDecode.pend = c.pend := rfl
@[simp] theorem Core.watch_releaseDecode (c : Core) : c.releaseDecode.watch = c.watch := rfl

@[simp] theorem Core.regs_flushFetch (c : Core) : c.flushFetch.regs = c.regs := rfl
@[simp] theorem Core.pc_flushFetch (c : Core) : c.flushFetch.pc = c.pc := rfl
@[simp] theorem Core.imem_flushFetch (c : Core) : c.flushFetch.imem = c.imem := rfl
@[simp] theorem Core.occExecute_flushFetch (c : Core) : c.flushFetch.occExecute = c.occExecute := rfl
@[simp] theorem Core.occMemory_flushFetch (c : Core) : c.flushFetch.occMemory = c.occMemory := rfl
@[simp] theorem Core.occWriteBack_flushFetch (c : Core) : c.flushFetch.occWriteBack = c.occWriteBack := rfl
@[simp] theorem Core.stalled_flushFetch (c : Core) : c.flushFetch.stalled = c.stalled := rfl
@[simp] theorem Core.stallNext_flushFetch (c : Core) : c.flushFetch.stallNext = c.stallNext := rfl
@[simp] theorem Core.dw_flushFetch (c : Core) : c.flushFetch.dw = c.dw := rfl
@[simp] theorem Core.hzCount_flushFetch (c : Core) : c.flushFetch.hzCount = c.hzCount := rfl
@[simp] theorem Core.hzHold_flushFetch (c : Core) : c.flushFetch.hzHold = c.hzHold := rfl
@[simp] theorem Core.drained_flushFetch (c : Core) : c.flushFetch.drained = c.drained := rfl
@[simp] theorem Core.cache_flushFetch (c : Core) : c.flushFetch.cache = c.cache := rfl
@[simp] theorem Core.util_flushFetch (c : Core) : c.flushFetch.util = c.util := rfl
@[simp] theorem Core.pend_flushFetch (c : Core) : c.flushFetch.pend = c.pend := rfl
@[simp] theorem Core.watch_flushFetch (c : Core) : c.flushFetch.watch = c.watch := rfl

@[simp] theorem Core.pc_applyDeferred (c : Core) : c.applyDeferred.pc = c.pc := by
  unfold Core.applyDeferred; split <;> rfl
@[simp] theorem Core.imem_applyDeferred (c : Core) : c.applyDeferred.imem = c.imem := by
  unfold Core.applyDeferred; split <;> rfl
@[simp] theorem Core.slots_applyDeferred (c : Core) : c.applyDeferred.slots = c.slots := by
  unfold Core.applyDeferred; split <;> rfl
@[simp] theorem Core.occExecute_applyDeferred (c : Core) : c.applyDeferred.occExecute = c.occExecute := by
  unfold Core.applyDeferred; split <;> rfl
@[simp] theorem Core.occMemory_applyDeferred (c : Core) : c.applyDeferred.occMemory = c.occMemory := by
  unfold Core.applyDeferred; split <;> rfl
@[simp] theorem Core.occWriteBack_applyDeferred (c : Core) : c.applyDeferred.occWriteBack = c.occWriteBack := by
  unfold Core.applyDeferred; split <;> rfl
@[simp] theorem Core.stalled_applyDeferred (c : Core) : c.applyDeferred.stalled = c.stalled := by
  unfold Core.applyDeferred; split <;> rfl
@[simp] theorem Core.stallNext_applyDeferred (c : Core) : c.applyDeferred.stallNext = c.stallNext := by
  unfold Core.applyDeferred; split <;> rfl
@[simp] theorem Core.hzCount_applyDeferred (c : Core) : c.applyDeferred.hzCount = c.hzCount := by
  unfold Core.applyDeferred; split <;> rfl
@[simp] theorem Core.hzHold_applyDeferred (c : Core) : c.applyDeferred.hzHold = c.hzHold := by
  unfold Core.applyDeferred; split <;> rfl
@[simp] theorem Core.branchTaken_applyDeferred (c : Core) : c.applyDeferred.branchTaken = c.branchTaken := by
  unfold Core.applyDeferred; split <;> rfl
@[simp] theorem Core.drained_applyDeferred (c : Core) : c.applyDeferred.drained = c.drained := by
  unfold Core.applyDeferred; split <;> rfl
@[simp] theorem Core.cache_applyDeferred (c : Core) : c.applyDeferred.cache = c.cache := by
  unfold Core.applyDeferred; split <;> rfl
@[simp] theorem Core.util_applyDeferred (c : Core) : c.applyDeferred.util = c.util := by
  unfold Core.applyDeferred; split <;> rfl
@[simp] theorem Core.pend_applyDeferred (c : Core) : c.applyDeferred.pend = c.pend := by
  unfold Core.applyDeferred; split <;> rfl
@[simp] theorem Core.watch_applyDeferred (c : Core) : c.applyDeferred.watch = c.watch := by
  unfold Core.applyDeferred; split <;> rfl
@[simp] theorem Core.dw_applyDeferred (c : Core) : c.applyDeferred.dw = none := by
  unfold Core.applyDeferred; split <;> simp_all

@[simp] theorem Core.regs_serve (c : Core) (ib : Nat) (t : Txn) (d : Word) : (c.serve ib t d).regs = c.regs := rfl
@[simp] theorem Core.pc_serve (c : Core) (ib : Nat) (t : Txn) (d : Word) : (c.serve ib t d).pc = c.pc := rfl
@[simp] theorem Core.imem_serve (c : Core) (ib : Nat) (t : Txn) (d : Word) : (c.serve ib t d).imem = c.imem := rfl
@[simp] theorem Core.slots_serve (c : Core) (ib : Nat) (t : Txn) (d : Word) : (c.serve ib t d).slots = c.slots := rfl
@[simp] theorem Core.occExecute_serve (c : Core) (ib : Nat) (t : Txn) (d : Word) : (c.serve ib t d).occExecute = c.occExecute := rfl
@[simp] theorem Core.occMemory_serve (c : Core) (ib : Nat) (t : Txn) (d : Word) : (c.serve ib t d).occMemory = c.occMemory := rfl
@[simp] theorem Core.occWriteBack_serve (c : Core) (ib : Nat) (t : Txn) (d : Word) : (c.serve ib t d).occWriteBack = c.occWriteBack := rfl
@[simp] theorem Core.dw_serve (c : Core) (ib : Nat) (t : Txn) (d : Word) : (c.serve ib t d).dw = c.dw := rfl
@[simp] theorem Core.hzCount_serve (c : Core) (ib : Nat) (t : Txn) (d : Word) : (c.serve ib t d).hzCount = c.hzCount := rfl
@[simp] theorem Core.hzHold_serve (c : Core) (ib : Nat) (t : Txn) (d : Word) : (c.serve ib t d).hzHold = c.hzHold := rfl
@[simp] theorem Core.branchTaken_serve (c : Core) (ib : Nat) (t : Txn) (d : Word) : (c.serve ib t d).branchTaken = c.branchTaken := rfl
@[simp] theorem Core.drained_serve (c : Core) (ib : Nat) (t : Txn) (d : Word) : (c.serve ib t d).drained = c.drained := rfl
@[simp] theorem Core.util_serve (c : Core) (ib : Nat) (t : Txn) (d : Word) : (c.serve ib t d).util = c.util := rfl
@[simp] theorem Core.watch_serve (c : Core) (ib : Nat) (t : Txn) (d : Word) : (c.serve ib t d).watch = c.watch := rfl
@[simp] theorem Core.pend_serve (c : Core) (ib : Nat) (t : Txn) (d : Word) : (c.serve ib t d).pend = none := rfl
@[simp] theorem Core.stalled_serve (c : Core) (ib : Nat) (t : Txn) (d : Word) : (c.serve ib t d).stalled = {} := rfl
@[simp] theorem Core.stallNext_serve (c : Core) (ib : Nat) (t : Txn) (d : Word) : (c.serve ib t d).stallNext = {} := rfl

/-! ## Going on after a step -/

@[simp] theorem onNext_next (s : State) (f : State → Result) : onNext (.next s) f = f s := rfl
@[simp] theorem onNext_fault (e : Fault) (f : State → Result) : onNext (.fault e) f = .fault e := rfl
@[simp] theorem onNext_refused (e : Refusal) (f : State → Result) : onNext (.refused e) f = .refused e := rfl

/-- A chain of two actions answers a next state exactly when both do. -/
theorem onNext_eq_next (r : Result) (f : State → Result) (t : State) :
    onNext r f = .next t ↔ ∃ s, r = .next s ∧ f s = .next t := by
  cases r <;> simp

end Sys2Proof.Machine
end

