-- ==== Sys2Proof/Laws/Encoding.lean ====
section
/-! SUPPORT. What the word form's fields are: the fields of a packed word are the fields packed, and masking a packed word masks
each field (30_encoding.md R63, R66). -/

namespace Sys2Proof

@[simp] theorem selectField_packWord (sel : Bool) (op : BitVec 7) (rd rs rt : Reg) (imm : Imm) :
    selectField (packWord sel op rd rs rt imm) = sel := by
  rw [selectField, packWord, BitVec.getLsbD_append, BitVec.getLsbD_append, BitVec.getLsbD_append, BitVec.getLsbD_append,
    BitVec.getLsbD_append]
  simp

@[simp] theorem opcodeField_packWord (sel : Bool) (op : BitVec 7) (rd rs rt : Reg) (imm : Imm) :
    opcodeField (packWord sel op rd rs rt imm) = op := by
  ext i hi
  have h1 : ¬ 24 + i < 12 := by omega
  have h2 : ¬ 24 + i - 12 < 4 := by omega
  have h3 : ¬ 24 + i - 12 - 4 < 4 := by omega
  have h4 : ¬ 24 + i - 12 - 4 - 4 < 4 := by omega
  have h5 : 24 + i - 12 - 4 - 4 - 4 = i := by omega
  simp only [opcodeField, packWord, BitVec.getElem_extractLsb', BitVec.getLsbD_append, h1, h2, h3, h4, h5, hi, if_true, if_false,
    BitVec.getLsbD_eq_getElem]

@[simp] theorem rdField_packWord (sel : Bool) (op : BitVec 7) (rd rs rt : Reg) (imm : Imm) :
    rdField (packWord sel op rd rs rt imm) = rd := by
  ext i hi
  have h1 : ¬ 20 + i < 12 := by omega
  have h2 : ¬ 20 + i - 12 < 4 := by omega
  have h3 : ¬ 20 + i - 12 - 4 < 4 := by omega
  have h5 : 20 + i - 12 - 4 - 4 = i := by omega
  simp only [rdField, packWord, BitVec.getElem_extractLsb', BitVec.getLsbD_append, h1, h2, h3, h5, hi, if_true, if_false,
    BitVec.getLsbD_eq_getElem]

@[simp] theorem rsField_packWord (sel : Bool) (op : BitVec 7) (rd rs rt : Reg) (imm : Imm) :
    rsField (packWord sel op rd rs rt imm) = rs := by
  ext i hi
  have h1 : ¬ 16 + i < 12 := by omega
  have h2 : ¬ 16 + i - 12 < 4 := by omega
  have h5 : 16 + i - 12 - 4 = i := by omega
  simp only [rsField, packWord, BitVec.getElem_extractLsb', BitVec.getLsbD_append, h1, h2, h5, hi, if_true, if_false,
    BitVec.getLsbD_eq_getElem]

@[simp] theorem rtField_packWord (sel : Bool) (op : BitVec 7) (rd rs rt : Reg) (imm : Imm) :
    rtField (packWord sel op rd rs rt imm) = rt := by
  ext i hi
  have h1 : ¬ 12 + i < 12 := by omega
  have h5 : 12 + i - 12 = i := by omega
  simp only [rtField, packWord, BitVec.getElem_extractLsb', BitVec.getLsbD_append, h1, h5, hi, if_true, if_false,
    BitVec.getLsbD_eq_getElem]

@[simp] theorem immField_packWord (sel : Bool) (op : BitVec 7) (rd rs rt : Reg) (imm : Imm) :
    immField (packWord sel op rd rs rt imm) = imm := by
  ext i hi
  simp only [immField, packWord, BitVec.getElem_extractLsb', BitVec.getLsbD_append, Nat.zero_add, hi, if_true,
    BitVec.getLsbD_eq_getElem]

/-- Masking a word masks each of its fields. -/
theorem packWord_and (s s' : Bool) (o o' : BitVec 7) (d d' a a' b b' : Reg) (i i' : Imm) :
    packWord s o d a b i &&& packWord s' o' d' a' b' i' = packWord (s && s') (o &&& o') (d &&& d') (a &&& a') (b &&& b') (i &&& i') := by
  ext j hj
  simp only [packWord, ← BitVec.getLsbD_eq_getElem, BitVec.getLsbD_append, BitVec.getLsbD_and,
    BitVec.getLsbD_ofBool]
  interval_cases j <;> simp

/-- A word is the word packed from its fields. -/
theorem packWord_fields (w : BitVec 32) :
    packWord (selectField w) (opcodeField w) (rdField w) (rsField w) (rtField w) (immField w) = w := by
  ext i hi
  simp only [packWord, selectField, opcodeField, rdField, rsField, rtField, immField, ← BitVec.getLsbD_eq_getElem,
    BitVec.getLsbD_append, BitVec.getLsbD_extractLsb', BitVec.getLsbD_ofBool]
  interval_cases i <;> simp

end Sys2Proof
end

