-- ==== Sys2Proof/Laws/PerInstr.lean ====
section
/-! SUPPORT. What is true of every instruction as syntax, one lemma a constructor: its word is an instance of its row of
spec/opcode_table.json (30_encoding.md R66). -/

namespace Sys2Proof

/-- The masks of R66 as packed words: each fixes `I`, the opcode and the must-be-zero fields. -/
theorem mask_formatR : (0xFF000FFF : BitVec 32) = packWord true 127 0 0 0 0xFFF := by decide
theorem mask_formatRI : (0xFF00F000 : BitVec 32) = packWord true 127 0 0 15 0 := by decide
theorem mask_formatB : (0xFFF00000 : BitVec 32) = packWord true 127 15 0 0 0 := by decide
theorem mask_formatJ : (0xFF0FF000 : BitVec 32) = packWord true 127 0 15 15 0 := by decide

/-- "A word w is an instance of a row of opcode_table.json when (w AND mask) = match" (R66). -/
def Laws.EncodesItsRow.Statement (i : Instr) : Prop := encode i &&& i.row.mask = i.row.pattern

namespace Laws.EncodesItsRow

theorem add (rd : Reg) (rs : Reg) (rt : Reg) : Statement (.add rd rs rt) := by
  simp only [Statement, encode, Instr.row, mask_formatR, packWord_and]
  simp only [BitVec.ofNat_eq_ofNat, BitVec.and_zero, BitVec.zero_and]
  decide
theorem addImm (rd : Reg) (rs : Reg) (imm : Imm) : Statement (.addImm rd rs imm) := by
  simp only [Statement, encode, Instr.row, mask_formatRI, packWord_and]
  simp only [BitVec.ofNat_eq_ofNat, BitVec.and_zero, BitVec.zero_and]
  decide
theorem sub (rd : Reg) (rs : Reg) (rt : Reg) : Statement (.sub rd rs rt) := by
  simp only [Statement, encode, Instr.row, mask_formatR, packWord_and]
  simp only [BitVec.ofNat_eq_ofNat, BitVec.and_zero, BitVec.zero_and]
  decide
theorem subImm (rd : Reg) (rs : Reg) (imm : Imm) : Statement (.subImm rd rs imm) := by
  simp only [Statement, encode, Instr.row, mask_formatRI, packWord_and]
  simp only [BitVec.ofNat_eq_ofNat, BitVec.and_zero, BitVec.zero_and]
  decide
theorem and (rd : Reg) (rs : Reg) (rt : Reg) : Statement (.and rd rs rt) := by
  simp only [Statement, encode, Instr.row, mask_formatR, packWord_and]
  simp only [BitVec.ofNat_eq_ofNat, BitVec.and_zero, BitVec.zero_and]
  decide
theorem andImm (rd : Reg) (rs : Reg) (imm : Imm) : Statement (.andImm rd rs imm) := by
  simp only [Statement, encode, Instr.row, mask_formatRI, packWord_and]
  simp only [BitVec.ofNat_eq_ofNat, BitVec.and_zero, BitVec.zero_and]
  decide
theorem or (rd : Reg) (rs : Reg) (rt : Reg) : Statement (.or rd rs rt) := by
  simp only [Statement, encode, Instr.row, mask_formatR, packWord_and]
  simp only [BitVec.ofNat_eq_ofNat, BitVec.and_zero, BitVec.zero_and]
  decide
theorem orImm (rd : Reg) (rs : Reg) (imm : Imm) : Statement (.orImm rd rs imm) := by
  simp only [Statement, encode, Instr.row, mask_formatRI, packWord_and]
  simp only [BitVec.ofNat_eq_ofNat, BitVec.and_zero, BitVec.zero_and]
  decide
theorem xor (rd : Reg) (rs : Reg) (rt : Reg) : Statement (.xor rd rs rt) := by
  simp only [Statement, encode, Instr.row, mask_formatR, packWord_and]
  simp only [BitVec.ofNat_eq_ofNat, BitVec.and_zero, BitVec.zero_and]
  decide
theorem xorImm (rd : Reg) (rs : Reg) (imm : Imm) : Statement (.xorImm rd rs imm) := by
  simp only [Statement, encode, Instr.row, mask_formatRI, packWord_and]
  simp only [BitVec.ofNat_eq_ofNat, BitVec.and_zero, BitVec.zero_and]
  decide
theorem mul (rd : Reg) (rs : Reg) (rt : Reg) : Statement (.mul rd rs rt) := by
  simp only [Statement, encode, Instr.row, mask_formatR, packWord_and]
  simp only [BitVec.ofNat_eq_ofNat, BitVec.and_zero, BitVec.zero_and]
  decide
theorem mulImm (rd : Reg) (rs : Reg) (imm : Imm) : Statement (.mulImm rd rs imm) := by
  simp only [Statement, encode, Instr.row, mask_formatRI, packWord_and]
  simp only [BitVec.ofNat_eq_ofNat, BitVec.and_zero, BitVec.zero_and]
  decide
theorem sll (rd : Reg) (rs : Reg) (rt : Reg) : Statement (.sll rd rs rt) := by
  simp only [Statement, encode, Instr.row, mask_formatR, packWord_and]
  simp only [BitVec.ofNat_eq_ofNat, BitVec.and_zero, BitVec.zero_and]
  decide
theorem sllImm (rd : Reg) (rs : Reg) (imm : Imm) : Statement (.sllImm rd rs imm) := by
  simp only [Statement, encode, Instr.row, mask_formatRI, packWord_and]
  simp only [BitVec.ofNat_eq_ofNat, BitVec.and_zero, BitVec.zero_and]
  decide
theorem srl (rd : Reg) (rs : Reg) (rt : Reg) : Statement (.srl rd rs rt) := by
  simp only [Statement, encode, Instr.row, mask_formatR, packWord_and]
  simp only [BitVec.ofNat_eq_ofNat, BitVec.and_zero, BitVec.zero_and]
  decide
theorem srlImm (rd : Reg) (rs : Reg) (imm : Imm) : Statement (.srlImm rd rs imm) := by
  simp only [Statement, encode, Instr.row, mask_formatRI, packWord_and]
  simp only [BitVec.ofNat_eq_ofNat, BitVec.and_zero, BitVec.zero_and]
  decide
theorem sra (rd : Reg) (rs : Reg) (rt : Reg) : Statement (.sra rd rs rt) := by
  simp only [Statement, encode, Instr.row, mask_formatR, packWord_and]
  simp only [BitVec.ofNat_eq_ofNat, BitVec.and_zero, BitVec.zero_and]
  decide
theorem sraImm (rd : Reg) (rs : Reg) (imm : Imm) : Statement (.sraImm rd rs imm) := by
  simp only [Statement, encode, Instr.row, mask_formatRI, packWord_and]
  simp only [BitVec.ofNat_eq_ofNat, BitVec.and_zero, BitVec.zero_and]
  decide
theorem beq (rs : Reg) (rt : Reg) (imm : Imm) : Statement (.beq rs rt imm) := by
  simp only [Statement, encode, Instr.row, mask_formatB, packWord_and]
  simp only [BitVec.ofNat_eq_ofNat, BitVec.and_zero, BitVec.zero_and]
  decide
theorem bne (rs : Reg) (rt : Reg) (imm : Imm) : Statement (.bne rs rt imm) := by
  simp only [Statement, encode, Instr.row, mask_formatB, packWord_and]
  simp only [BitVec.ofNat_eq_ofNat, BitVec.and_zero, BitVec.zero_and]
  decide
theorem blt (rs : Reg) (rt : Reg) (imm : Imm) : Statement (.blt rs rt imm) := by
  simp only [Statement, encode, Instr.row, mask_formatB, packWord_and]
  simp only [BitVec.ofNat_eq_ofNat, BitVec.and_zero, BitVec.zero_and]
  decide
theorem bgt (rs : Reg) (rt : Reg) (imm : Imm) : Statement (.bgt rs rt imm) := by
  simp only [Statement, encode, Instr.row, mask_formatB, packWord_and]
  simp only [BitVec.ofNat_eq_ofNat, BitVec.and_zero, BitVec.zero_and]
  decide
theorem ble (rs : Reg) (rt : Reg) (imm : Imm) : Statement (.ble rs rt imm) := by
  simp only [Statement, encode, Instr.row, mask_formatB, packWord_and]
  simp only [BitVec.ofNat_eq_ofNat, BitVec.and_zero, BitVec.zero_and]
  decide
theorem bge (rs : Reg) (rt : Reg) (imm : Imm) : Statement (.bge rs rt imm) := by
  simp only [Statement, encode, Instr.row, mask_formatB, packWord_and]
  simp only [BitVec.ofNat_eq_ofNat, BitVec.and_zero, BitVec.zero_and]
  decide
theorem jal (rd : Reg) (imm : Imm) : Statement (.jal rd imm) := by
  simp only [Statement, encode, Instr.row, mask_formatJ, packWord_and]
  simp only [BitVec.ofNat_eq_ofNat, BitVec.and_zero, BitVec.zero_and]
  decide
theorem lw (rd : Reg) (rs : Reg) (rt : Reg) : Statement (.lw rd rs rt) := by
  simp only [Statement, encode, Instr.row, mask_formatR, packWord_and]
  simp only [BitVec.ofNat_eq_ofNat, BitVec.and_zero, BitVec.zero_and]
  decide
theorem sw (rd : Reg) (rs : Reg) (rt : Reg) : Statement (.sw rd rs rt) := by
  simp only [Statement, encode, Instr.row, mask_formatR, packWord_and]
  simp only [BitVec.ofNat_eq_ofNat, BitVec.and_zero, BitVec.zero_and]
  decide
theorem ll (rd : Reg) (rs : Reg) (rt : Reg) : Statement (.ll rd rs rt) := by
  simp only [Statement, encode, Instr.row, mask_formatR, packWord_and]
  simp only [BitVec.ofNat_eq_ofNat, BitVec.and_zero, BitVec.zero_and]
  decide
theorem sc (rd : Reg) (rs : Reg) (rt : Reg) : Statement (.sc rd rs rt) := by
  simp only [Statement, encode, Instr.row, mask_formatR, packWord_and]
  simp only [BitVec.ofNat_eq_ofNat, BitVec.and_zero, BitVec.zero_and]
  decide
theorem halt : Statement .halt := by
  unfold Statement
  decide

end Laws.EncodesItsRow

end Sys2Proof
end

