-- ==== Sys2Proof/Laws/Table.lean ====
section
/-! SUPPORT. What the sparse tables do (the data memory and the watch table): a read after a write, and the canonical form that
every write keeps. -/

namespace Sys2Proof.Machine

variable {α : Type} [DecidableEq α]

theorem Sparse.wfFrom_mono (d : α) (m n : Nat) (t : List (Nat × α)) (h : m ≤ n) (hw : Sparse.wfFrom d n t = true) :
    Sparse.wfFrom d m t = true := by
  cases t with
  | nil => rfl
  | cons p t =>
    obtain ⟨b, v⟩ := p
    simp only [Sparse.wfFrom, Bool.and_eq_true, decide_eq_true_eq] at hw ⊢
    exact ⟨⟨by omega, hw.1.2⟩, hw.2⟩

theorem Sparse.read_of_lt (d : α) (n a : Nat) (t : List (Nat × α)) (hw : Sparse.wfFrom d n t = true) (h : a < n) :
    Sparse.read d t a = d := by
  induction t generalizing n with
  | nil => rfl
  | cons p t ih =>
    obtain ⟨b, v⟩ := p
    simp only [Sparse.wfFrom, Bool.and_eq_true, decide_eq_true_eq] at hw
    have hb : a ≠ b := by omega
    simp only [Sparse.read, hb, if_false]
    exact ih (b + 1) hw.2 (by omega)

/-- In a table in canonical form a read after a write gives the value at its key and the old value everywhere else. -/
theorem Sparse.read_write (d : α) (n : Nat) (t : List (Nat × α)) (hw : Sparse.wfFrom d n t = true) (a b : Nat) (v : α) :
    Sparse.read d (Sparse.write d t a v) b = if b = a then v else Sparse.read d t b := by
  induction t generalizing n with
  | nil =>
    by_cases hv : v = d <;> by_cases hb : b = a <;> simp [Sparse.write, Sparse.read, hv, hb]
  | cons p t ih =>
    obtain ⟨c, w⟩ := p
    simp only [Sparse.wfFrom, Bool.and_eq_true, decide_eq_true_eq] at hw
    have hlow : ∀ x, x ≤ c → Sparse.read d t x = d := fun x hx => Sparse.read_of_lt d (c + 1) x t hw.2 (by omega)
    simp only [Sparse.write]
    split
    · rename_i hac
      split <;> rename_i hv
      · by_cases hb : b = a
        · subst hb
          have hne : b ≠ c := by omega
          simp [Sparse.read, hne, hv, hlow b (by omega)]
        · simp [hb]
      · simp [Sparse.read]
    · split
      · rename_i hac
        subst hac
        split <;> rename_i hv
        · by_cases hb : b = a
          · subst hb
            simp [hv, hlow b (Nat.le_refl b)]
          · simp [Sparse.read, hb]
        · by_cases hb : b = a <;> simp [Sparse.read, hb]
      · rename_i h1 h2
        simp only [Sparse.read]
        by_cases hbc : b = c
        · have hba : b ≠ a := by omega
          simp [hbc, Ne.symm h2]
        · simp [hbc, ih (c + 1) hw.2]

theorem Sparse.wfFrom_write (d : α) (n : Nat) (t : List (Nat × α)) (hw : Sparse.wfFrom d n t = true) (a : Nat) (ha : n ≤ a) (v : α) :
    Sparse.wfFrom d n (Sparse.write d t a v) = true := by
  induction t generalizing n with
  | nil => by_cases hv : v = d <;> simp [Sparse.write, Sparse.wfFrom, hv, ha]
  | cons p t ih =>
    obtain ⟨c, w⟩ := p
    have hw' := hw
    simp only [Sparse.wfFrom, Bool.and_eq_true, decide_eq_true_eq] at hw
    simp only [Sparse.write]
    split
    · rename_i hac
      split <;> rename_i hv
      · exact hw'
      · simp only [Sparse.wfFrom, Bool.and_eq_true, decide_eq_true_eq]
        exact ⟨⟨ha, hv⟩, ⟨by omega, hw.1.2⟩, hw.2⟩
    · split
      · rename_i hac
        subst hac
        split <;> rename_i hv
        · exact Sparse.wfFrom_mono d n (a + 1) t (by omega) hw.2
        · simp only [Sparse.wfFrom, Bool.and_eq_true, decide_eq_true_eq]
          exact ⟨⟨ha, hv⟩, hw.2⟩
      · simp only [Sparse.wfFrom, Bool.and_eq_true, decide_eq_true_eq]
        exact ⟨⟨hw.1.1, hw.1.2⟩, ih (c + 1) hw.2 (by omega)⟩

/-- Every write keeps the canonical form. -/
theorem Sparse.wf_write (d : α) (t : List (Nat × α)) (hw : Sparse.wf d t = true) (a : Nat) (v : α) :
    Sparse.wf d (Sparse.write d t a v) = true :=
  Sparse.wfFrom_write d 0 t hw a (Nat.zero_le a) v

/-- The memory: a read after a write. -/
theorem Memory.read_write (m : Memory) (hw : m.wf = true) (a b : Nat) (v : Word) :
    (m.write a v).read b = if b = a then v else m.read b :=
  Sparse.read_write 0 0 m hw a b v

/-- The memory: a write keeps the canonical form. -/
theorem Memory.wf_write (m : Memory) (hw : m.wf = true) (a : Nat) (v : Word) : (m.write a v).wf = true :=
  Sparse.wf_write 0 m hw a v

/-- Reset's memory has the canonical form. -/
theorem Memory.wf_reset : State.reset.mem.wf = true := rfl

/-- The watch table: a read after a write. -/
theorem watchRead_watchWrite (t : List (Nat × Watch)) (hw : Sparse.wf Watch.notWatched t = true) (a b : Word) (w : Watch) :
    watchRead (watchWrite t a w) b = if b = a then w else watchRead t b := by
  simp only [watchRead, watchWrite, Sparse.read_write Watch.notWatched 0 t hw, BitVec.toNat_inj]

/-- The watch table: a write keeps the canonical form. -/
theorem wf_watchWrite (t : List (Nat × Watch)) (hw : Sparse.wf Watch.notWatched t = true) (a : Word) (w : Watch) :
    Sparse.wf Watch.notWatched (watchWrite t a w) = true :=
  Sparse.wf_write Watch.notWatched t hw a.toNat w

end Sys2Proof.Machine
end

