-- ==== Sys2Proof/Laws/Stages.lean ====
section
/-! SUPPORT. One lemma for each shared operation, saying once everything it can do, for the proofs to cite instead of unfolding it. -/

namespace Sys2Proof.Machine

/-! ## Which stage acts -/

theorem inStage_fetch (s : State) (k : Nat) (f d e m w : StageAction) (h : s.turn = .stage k .fetch) :
    inStage s f d e m w = f k s := by simp [inStage, h]

theorem inStage_decode (s : State) (k : Nat) (f d e m w : StageAction) (h : s.turn = .stage k .decode) :
    inStage s f d e m w = d k s := by simp [inStage, h]

theorem inStage_execute (s : State) (k : Nat) (f d e m w : StageAction) (h : s.turn = .stage k .execute) :
    inStage s f d e m w = e k s := by simp [inStage, h]

theorem inStage_memory (s : State) (k : Nat) (f d e m w : StageAction) (h : s.turn = .stage k .memory) :
    inStage s f d e m w = m k s := by simp [inStage, h]

theorem inStage_writeBack (s : State) (k : Nat) (f d e m w : StageAction) (h : s.turn = .stage k .writeBack) :
    inStage s f d e m w = w k s := by simp [inStage, h]

/-- An instruction that answers a next state was in a stage, and its action of that stage answered it. -/
theorem inStage_cases (s t : State) (f d e m w : StageAction) (h : inStage s f d e m w = .next t) :
    ∃ k, (s.turn = .stage k .fetch ∧ f k s = .next t) ∨ (s.turn = .stage k .decode ∧ d k s = .next t) ∨
      (s.turn = .stage k .execute ∧ e k s = .next t) ∨ (s.turn = .stage k .memory ∧ m k s = .next t) ∨
      (s.turn = .stage k .writeBack ∧ w k s = .next t) := by
  unfold inStage at h
  split at h <;> rename_i k ht
  · exact ⟨k, .inl ⟨ht, h⟩⟩
  · exact ⟨k, .inr (.inl ⟨ht, h⟩)⟩
  · exact ⟨k, .inr (.inr (.inl ⟨ht, h⟩))⟩
  · exact ⟨k, .inr (.inr (.inr (.inl ⟨ht, h⟩)))⟩
  · exact ⟨k, .inr (.inr (.inr (.inr ⟨ht, h⟩)))⟩
  all_goals simp at h

/-! ## Decode -/

/-- Decode of an instruction with the defensive check answers only when `rd` is not 1. -/
theorem checkingDest_next (rd : Reg) (f : StageAction) (k : Nat) (s t : State) :
    checkingDest rd f k s = .next t ↔ rd ≠ 1 ∧ f k s = .next t := by
  unfold checkingDest State.raise
  split <;> simp_all

theorem decodeOperands_next (rd rs : Reg) (b : OperandB) (k : Nat) (s t : State) :
    decodeOperands rd rs b k s = .next t ↔ rd ≠ 1 ∧ s.pass k .decode (readOperands s k rs b) = t := by
  simp [decodeOperands, checkingDest_next]

theorem decodeStore_next (rd rs rt : Reg) (k : Nat) (s t : State) :
    decodeStore rd rs rt k s = .next t ↔
      rd ≠ 1 ∧ s.pass k .decode { readOperands s k rs (.reg rt) with sdata := s.reg k rd } = t := by
  simp [decodeStore, checkingDest_next]

theorem decodeBranch_next (c : Cond) (rs rt : Reg) (imm : Imm) (k : Nat) (s t : State) :
    decodeBranch c rs rt imm k s = .next t ↔
      (if c.holds (s.reg k rs) (s.reg k rt) then s.redirect k (branchTarget imm) else s).pass k .decode
        (readOperands s k rs (.reg rt)) = t := by
  simp [decodeBranch]

theorem decodeJal_next (imm : Imm) (k : Nat) (s t : State) :
    decodeJal imm k s = .next t ↔
      (s.redirect k (branchTarget imm)).pass k .decode
        { readOperands s k 0 (.reg 0) with ret := (s.slot k .decode).ipc + 1 } = t := by
  simp [decodeJal]

/-! ## Execute -/

theorem executeAlu_next (f : Word → Word → Word) (k : Nat) (s t : State) :
    executeAlu f k s = .next t ↔
      s.pass k .execute { s.slot k .execute with result := f (s.slot k .execute).a (s.slot k .execute).b } = t := by
  simp [executeAlu]

/-- A shift answers a next state exactly for an amount in 0 .. 31 (R85). -/
theorem executeShift_next (f : Word → Nat → Word) (k : Nat) (s t : State) :
    executeShift f k s = .next t ↔
      (0 ≤ (s.slot k .execute).b.toInt ∧ (s.slot k .execute).b.toInt ≤ 31) ∧
      s.pass k .execute
        { s.slot k .execute with result := f (s.slot k .execute).a (s.slot k .execute).b.toInt.toNat } = t := by
  simp only [executeShift, State.raise]
  split
  · rename_i h
    constructor
    · intro h'
      cases h'
    · rintro ⟨h', -⟩
      omega
  · rename_i h
    constructor
    · intro h'
      cases h'
      exact ⟨by omega, rfl⟩
    · rintro ⟨-, rfl⟩
      rfl

/-! ## The hazard check -/

/-- The source set of a record with an index over 15. -/
theorem WideRecord.mem_sources (w : WideRecord) (d : Reg) :
    d ∈ w.sources ↔ d ≠ 0 ∧ d ≠ 1 ∧ ∃ i, w.op = some i ∧ d.toNat ∈ [w.rs, w.rt, w.rd].take (sourceFields i).length := by
  unfold WideRecord.sources
  cases w.op with
  | none => simp
  | some i =>
    simp only [List.mem_map, List.mem_filter, Option.some.injEq, exists_eq_left', Bool.and_eq_true, decide_eq_true_eq]
    constructor
    · rintro ⟨n, ⟨hm, ⟨hn, h0⟩, h1⟩, rfl⟩
      have hlt : n % 16 = n := Nat.mod_eq_of_lt (by omega)
      exact ⟨fun h => h0 (by simpa [hlt] using congrArg BitVec.toNat h), fun h => h1 (by simpa [hlt] using congrArg BitVec.toNat h),
        by simpa [hlt] using hm⟩
    · rintro ⟨h0, h1, hm⟩
      exact ⟨d.toNat, ⟨hm, ⟨by have := d.isLt; omega, fun h => h0 (BitVec.eq_of_toNat_eq h)⟩, fun h => h1 (BitVec.eq_of_toNat_eq h)⟩,
        BitVec.eq_of_toNat_eq (by simp)⟩

/-- An occupant is a producer of a source set exactly when it is an instruction with a destination in it (R118). -/
theorem Content.writesOneOf_eq_true (c : Content) (rs : List Reg) :
    c.writesOneOf rs = true ↔ ∃ p d, c = .instr p ∧ destReg p = some d ∧ d ∈ rs := by
  unfold Content.writesOneOf Content.dest
  cases c with
  | instr p => cases hd : destReg p <;> simp [hd]
  | bubble => simp
  | corrupt d => simp

/-! ## Memory -/

theorem checkingAddress_next (f : StageAction) (k : Nat) (s t : State) :
    checkingAddress f k s = .next t ↔ (s.slot k .memory).addr.toNat < s.cfg.memWords ∧ f k s = .next t := by
  simp only [checkingAddress, State.raise]
  split <;> simp_all

/-- What a read of the cache answers and leaves (R134). -/
theorem Cache.read_eq (c : Cache) (ib : Nat) (a : Word) :
    c.read ib a =
      if c.hasCopy ib a then (some (c.line ib a).data, { c with hits := c.hits + 1 })
      else (none, { c with misses := c.misses + 1 }) := rfl

/-- Reading changes no line (R139 (e)). -/
@[simp] theorem Cache.lines_read (c : Cache) (ib : Nat) (a : Word) : (c.read ib a).2.lines = c.lines := by
  unfold Cache.read
  split <;> rfl

/-- Every operation of the cache keeps the number of its lines. -/
@[simp] theorem Cache.length_setLine (c : Cache) (ib : Nat) (a : Word) (l : Line) :
    (c.setLine ib a l).lines.length = c.lines.length := by
  simp [Cache.setLine]

@[simp] theorem Cache.length_write (c : Cache) (ib : Nat) (a d : Word) :
    (c.write ib a d).2.lines.length = c.lines.length := by
  unfold Cache.write
  split <;> simp [Cache.setLine]

@[simp] theorem Cache.length_install (c : Cache) (ib : Nat) (a d : Word) (w : Bool) :
    (c.install ib a d w).lines.length = c.lines.length := by
  simp [Cache.install]

@[simp] theorem Cache.length_setBits (c : Cache) (ib : Nat) (a : Word) (st : Msi) :
    (c.setBits ib a st).lines.length = c.lines.length := by
  unfold Cache.setBits
  split <;> simp

/-- The line an address selects after a line is set, for addresses whose lines the cache has. -/
theorem Cache.line_setLine (c : Cache) (ib : Nat) (a b : Word) (l : Line) (h : lineIndex ib a < c.lines.length) :
    (c.setLine ib a l).line ib b = if lineIndex ib b = lineIndex ib a then l else c.line ib b := by
  simp only [Cache.line, Cache.setLine, List.getD_eq_getElem?_getD]
  by_cases hb : lineIndex ib b = lineIndex ib a
  · simp [hb, h]
  · simp [hb, List.getElem?_set_ne (Ne.symm hb)]

/-- A line that the cache does not have cannot be set. -/
theorem Cache.setLine_of_le (c : Cache) (ib : Nat) (a : Word) (l : Line) (h : c.lines.length ≤ lineIndex ib a) :
    c.setLine ib a l = c := by
  simp [Cache.setLine, List.set_eq_of_length_le h]

/-- The tag and the index of an address determine it (R132). -/
theorem address_eq_of_split (ib : Nat) (a b : Word) (ht : lineTag ib a = lineTag ib b) (hi : lineIndex ib a = lineIndex ib b) :
    a = b := by
  have h1 : a.toNat / 2 ^ ib = b.toNat / 2 ^ ib := by
    have := congrArg BitVec.toNat ht
    simpa [lineTag, BitVec.toNat_ushiftRight, Nat.shiftRight_eq_div_pow] using this
  have h2 : a.toNat % 2 ^ ib = b.toNat % 2 ^ ib := hi
  apply BitVec.eq_of_toNat_eq
  rw [← Nat.div_add_mod a.toNat (2 ^ ib), ← Nat.div_add_mod b.toNat (2 ^ ib), h1, h2]

/-! ## The memory unit and the bus -/

/-- A memory operation is recorded exactly when none is in flight (R159). -/
theorem State.beginMemOp_idle (s : State) (kind : MemOpKind) (a : Word) (h : s.memop = none) :
    s.beginMemOp kind a = (true, { s with memop := some { kind := kind, addr := a, remaining := s.cfg.memLatency } }) := by
  simp [State.beginMemOp, h]

theorem State.beginMemOp_busy (s : State) (kind : MemOpKind) (a : Word) (op : MemOp) (h : s.memop = some op) :
    s.beginMemOp kind a = (false, s) := by
  simp [State.beginMemOp, h]

/-- Beginning an operation touches the descriptor only. -/
theorem State.beginMemOp_frame (s : State) (kind : MemOpKind) (a : Word) :
    (s.beginMemOp kind a).2 = { s with memop := (s.beginMemOp kind a).2.memop } := by
  unfold State.beginMemOp
  split <;> rfl

/-- The holders that a snoop finds: the other cores whose copy is in the state (R145). -/
theorem State.mem_otherHolders (s : State) (k j : Nat) (a : Word) (st : Msi) :
    j ∈ s.otherHolders k a st ↔ j < s.nCores ∧ j ≠ k ∧ s.bits j a = some st := by
  simp [State.otherHolders]

/-- What a bus tick does (R144): it completes the transaction in flight with the data its path gives, or grants the least waiting request, or does
nothing. -/
theorem State.busTick_cases (s : State) (r : MemResult) :
    (∃ t d, s.txn = some t ∧ s.busTick r = s.complete t d ∧
      (t.source = .cacheSupply d ∨ (t.source = .memRead ∧ r = .readCompleted ∧ d = s.memStaged) ∨
        (t.source = .flush d ∧ r = .writeCompleted))) ∨
    (∃ t, s.txn = some t ∧ s.busTick r = s ∧
      ((t.source = .memRead ∧ r ≠ .readCompleted) ∨ (∃ d, t.source = .flush d ∧ r ≠ .writeCompleted))) ∨
    (∃ j, s.txn = none ∧ s.leastPending = some j ∧ s.busTick r = s.grant j) ∨
    (s.txn = none ∧ s.leastPending = none ∧ s.busTick r = s) := by
  unfold State.busTick
  cases ht : s.txn with
  | none =>
    cases hp : s.leastPending with
    | none => simp
    | some j => simp
  | some t =>
    cases hs : t.source <;> cases r <;> simp [hs]

/-! ## The stages -/

/-- Everything Write-back can do (R128). -/
theorem writeBackStage_cases (k : Nat) (s t : State) (h : writeBackStage k s = .next t) :
    ((s.core k).stalled.writeBack = true ∧ t = s) ∨
    ((s.core k).stalled.writeBack = false ∧
      ((∃ i, (s.slot k .writeBack).content = .instr i ∧ exec i (s.applyDeferred k) = .next t) ∨
        ((∀ i, (s.slot k .writeBack).content ≠ .instr i) ∧ t = s.applyDeferred k))) := by
  unfold writeBackStage at h
  cases hs : (s.core k).stalled.writeBack <;> cases hc : (s.slot k .writeBack).content <;> simp_all

/-- Everything the Memory stage can do (R124). -/
theorem memoryStage_cases (k : Nat) (s t : State) (h : memoryStage k s = .next t) :
    ((s.core k).stalled.memory = true ∧ t = s) ∨
    ((s.core k).stalled.memory = false ∧
      ((∃ i, (s.slot k .memory).content = .instr i ∧ exec i s = .next t) ∨
        ((∀ i, (s.slot k .memory).content ≠ .instr i) ∧ t = s.pass k .memory (s.slot k .memory)))) := by
  unfold memoryStage passOn at h
  cases hs : (s.core k).stalled.memory <;> cases hc : (s.slot k .memory).content <;> simp_all

/-- Everything Execute can do (R123). -/
theorem executeStage_cases (k : Nat) (s t : State) (h : executeStage k s = .next t) :
    ((s.core k).stalled.execute = true ∧ t = s) ∨
    ((s.core k).stalled.execute = false ∧
      ((∃ i, (s.slot k .execute).content = .instr i ∧ exec i s = .next t) ∨
        ((s.slot k .execute).content = .bubble ∧ t = s.pass k .execute (s.slot k .execute)))) := by
  unfold executeStage passOn State.raise at h
  cases hs : (s.core k).stalled.execute <;> cases hc : (s.slot k .execute).content <;> simp_all

/-- Everything Decode can do (R116). -/
theorem decodeStage_cases (k : Nat) (s t : State) (h : decodeStage k s = .next t) :
    ((s.core k).stalled.decode = true ∧ t = s) ∨
    ((s.core k).stalled.decode = false ∧ (s.core k).stallLength > 0 ∧ t = s.modCore k Core.holdDecode) ∨
    ((s.core k).stalled.decode = false ∧ (s.core k).stallLength = 0 ∧
      ((∃ i, (s.slot k .decode).content = .instr i ∧ exec i (s.modCore k Core.releaseDecode) = .next t) ∨
        ((∀ i, (s.slot k .decode).content ≠ .instr i) ∧
          t = (s.modCore k Core.releaseDecode).pass k .decode ((s.modCore k Core.releaseDecode).slot k .decode)))) := by
  unfold decodeStage passOn State.raise at h
  cases hs : (s.core k).stalled.decode with
  | true => simp_all
  | false =>
    by_cases hl : (s.core k).stallLength > 0
    · simp_all
    · have hl0 : (s.core k).stallLength = 0 := by omega
      cases hc : (s.slot k .decode).content with
      | bubble => simp_all
      | instr i => simp_all
      | corrupt d => cases d <;> simp_all

/-- Everything Fetch can do (R115). -/
theorem fetchStage_cases (k : Nat) (s t : State) (h : fetchStage k s = .next t) :
    (((s.core k).stalled.fetch = true ∨ (s.core k).hzHold = true) ∧ t = s) ∨
    ((s.core k).stalled.fetch = false ∧ (s.core k).hzHold = false ∧ (s.core k).branchTaken = true ∧
      t = s.modCore k Core.flushFetch) ∨
    ((s.core k).stalled.fetch = false ∧ (s.core k).hzHold = false ∧ (s.core k).branchTaken = false ∧
      ∃ w i, (s.core k).wordAtPc = some w ∧ decodeWord w = .ok i ∧ exec i s = .next t) := by
  unfold fetchStage State.raise at h
  cases hs : (s.core k).stalled.fetch <;> cases hh : (s.core k).hzHold <;> cases hb : (s.core k).branchTaken <;>
    simp only [hs, hh, hb, if_true, if_false, Bool.false_eq_true, Host.Outcome.next.injEq] at h
  · cases hw : (s.core k).wordAtPc with
    | none => simp [hw] at h
    | some w =>
      cases hd : decodeWord w with
      | ok i => simp_all
      | error e => simp [hw, hd] at h
  all_goals simp [h.symm]

/-! ## The load-time check -/

theorem firstIllegal_eq_none (n : Nat) (ws : List Word) :
    firstIllegal n ws = none ↔ ∀ w ∈ ws, ∃ i, decodeWord w = .ok i := by
  induction ws generalizing n with
  | nil => simp [firstIllegal]
  | cons w ws ih => cases hd : decodeWord w <;> simp [firstIllegal, hd, ih]

/-- A program passes the check exactly when it is not empty and every word of it decodes (R168). -/
theorem programProblem_eq_none (ws : List Word) :
    programProblem ws = none ↔ ws ≠ [] ∧ ∀ w ∈ ws, ∃ i, decodeWord w = .ok i := by
  unfold programProblem
  by_cases h : ws = [] <;> simp [h, firstIllegal_eq_none]

theorem firstRejected_eq_none (k : Nat) (cs : List Core) :
    firstRejected k cs = none ↔ ∀ c ∈ cs, programProblem c.imem = none := by
  induction cs generalizing k with
  | nil => simp [firstRejected]
  | cons c cs ih => cases hp : programProblem c.imem <;> simp [firstRejected, hp, ih]

/-- No program is rejected exactly when every core's program is legal and not empty. -/
theorem State.loadProblem_eq_none (s : State) :
    s.loadProblem = none ↔ ∀ c ∈ s.cores, c.imem ≠ [] ∧ ∀ w ∈ c.imem, ∃ i, decodeWord w = .ok i := by
  simp only [State.loadProblem, firstRejected_eq_none, programProblem_eq_none]

/-! ## The step -/

/-- Everything one step can do (R163): the action that has the turn, and the turn passed on. -/
theorem step_cases (s t : State) (h : step s = .next t) :
    (s.turn = .tickStart ∧ s.allDrained = true ∧ t = s) ∨
    (s.turn = .tickStart ∧ s.allDrained = false ∧ s.loadProblem = none ∧
      t = ({ s with cycle := s.cycle + 1 }.give (.cycleStart 0))) ∨
    (∃ k, s.turn = .cycleStart k ∧ k < s.nCores ∧ (s.core k).drained = true ∧ t = s.give (.cycleStart (k + 1))) ∨
    (∃ k, s.turn = .cycleStart k ∧ k < s.nCores ∧ (s.core k).drained = false ∧
      t = (s.modCore k Core.beginCycle).give (.stage k .writeBack)) ∨
    (∃ k, s.turn = .cycleStart k ∧ ¬ k < s.nCores ∧ t = s.give .memory) ∨
    (∃ k st u, s.turn = .stage k st ∧ stageAction k st s = .next u ∧ t = u.give (st.turnAfter k)) ∨
    (s.turn = .memory ∧ t = s.memTick.2.give (.bus s.memTick.1)) ∨
    (∃ r, s.turn = .bus r ∧ t = (s.busTick r).give .tickStart) := by
  unfold step nextAction at h
  cases ht : s.turn with
  | tickStart =>
    simp only [ht, tickStartAction] at h
    cases hd : s.allDrained with
    | true => simp_all
    | false =>
      cases hl : s.loadProblem with
      | none => simp_all
      | some p => simp_all
  | cycleStart k =>
    simp only [ht, cycleStartAction] at h
    by_cases hk : k < s.nCores
    · cases hd : (s.core k).drained <;> simp_all
    · simp_all
  | stage k st =>
    simp only [ht, onNext_eq_next] at h
    obtain ⟨u, hu, hv⟩ := h
    cases hv
    simp [hu]
  | memory =>
    simp only [ht] at h
    cases h
    simp
  | bus r =>
    simp only [ht] at h
    cases h
    simp

end Sys2Proof.Machine
end

