-- ==== Sys2Proof/Tests/Slice0.lean ====
section
/-! SUPPORT. Tests. Their expected values are those of spec/95_test_vectors.md (the section is named at each group) or computed by hand from the rule
named. A theorem `test_meets_<statement>` shows a concrete state and operands that meet that statement's hypotheses together. -/

namespace Sys2Proof.Tests

open Sys2Proof.Machine

/-! ## Well-formedness (R69, R168, R191): each ill-formed term is refused -/

theorem test_wf_refuses_rd1_formatR : (Instr.add 1 2 3).wf = false := by decide
theorem test_wf_refuses_rd1_formatRI : (Instr.sraImm 1 2 3).wf = false := by decide
theorem test_wf_refuses_rd1_load : (Instr.lw 1 2 3).wf = false := by decide
theorem test_wf_refuses_rd1_store : (Instr.sw 1 2 3).wf = false := by decide
theorem test_wf_accepts_rd1_jal : (Instr.jal 1 3).wf = true := by decide
theorem test_wf_accepts_rs1_rt1 : (Instr.sc 2 1 1).wf = true := by decide

/-! ## Decoding: a word of every constructor, the words of 2.1 and section 3 where they have one, the others written out from R63 to R65 -/

theorem test_decode_add : decodeWord 0x00423000 = .ok (.add 4 2 3) := by rfl
theorem test_decode_addImm : decodeWord 0x80200800 = .ok (.addImm 2 0 (-2048)) := by rfl
theorem test_decode_sub : decodeWord 0x01423000 = .ok (.sub 4 2 3) := by rfl
theorem test_decode_subImm : decodeWord 0x81220001 = .ok (.subImm 2 2 1) := by rfl
theorem test_decode_and : decodeWord 0x02423000 = .ok (.and 4 2 3) := by rfl
theorem test_decode_andImm : decodeWord 0x82420FFF = .ok (.andImm 4 2 (-1)) := by rfl
theorem test_decode_or : decodeWord 0x03423000 = .ok (.or 4 2 3) := by rfl
theorem test_decode_orImm : decodeWord 0x83420801 = .ok (.orImm 4 2 (-2047)) := by rfl
theorem test_decode_xor : decodeWord 0x04423000 = .ok (.xor 4 2 3) := by rfl
theorem test_decode_xorImm : decodeWord 0x84420123 = .ok (.xorImm 4 2 0x123) := by rfl
theorem test_decode_mul : decodeWord 0x05442000 = .ok (.mul 4 4 2) := by rfl
theorem test_decode_mulImm : decodeWord 0x85420003 = .ok (.mulImm 4 2 3) := by rfl
theorem test_decode_sll : decodeWord 0x06322000 = .ok (.sll 3 2 2) := by rfl
theorem test_decode_sllImm : decodeWord 0x86640004 = .ok (.sllImm 6 4 4) := by rfl
theorem test_decode_srl : decodeWord 0x07423000 = .ok (.srl 4 2 3) := by rfl
theorem test_decode_srlImm : decodeWord 0x8742001F = .ok (.srlImm 4 2 31) := by rfl
theorem test_decode_sra : decodeWord 0x08FEF000 = .ok (.sra 15 14 15) := by rfl
theorem test_decode_sraImm : decodeWord 0x88760002 = .ok (.sraImm 7 6 2) := by rfl
theorem test_decode_beq : decodeWord 0x09000FFF = .ok (.beq 0 0 (-1)) := by rfl
theorem test_decode_bne : decodeWord 0x0A023004 = .ok (.bne 2 3 4) := by rfl
theorem test_decode_blt : decodeWord 0x0B0237FF = .ok (.blt 2 3 2047) := by rfl
theorem test_decode_bgt : decodeWord 0x0C020003 = .ok (.bgt 2 0 3) := by rfl
theorem test_decode_ble : decodeWord 0x0D01E005 = .ok (.ble 1 14 5) := by rfl
theorem test_decode_bge : decodeWord 0x0E0F1006 = .ok (.bge 15 1 6) := by rfl
theorem test_decode_jal : decodeWord 0x0F100003 = .ok (.jal 1 3) := by rfl
theorem test_decode_lw : decodeWord 0x10320000 = .ok (.lw 3 2 0) := by rfl
theorem test_decode_sw : decodeWord 0x11320000 = .ok (.sw 3 2 0) := by rfl
theorem test_decode_ll : decodeWord 0x12320000 = .ok (.ll 3 2 0) := by rfl
theorem test_decode_sc : decodeWord 0x13320000 = .ok (.sc 3 2 0) := by rfl
theorem test_decode_halt : decodeWord 0x14000000 = .ok .halt := by rfl

theorem test_illegal_words_of_the_spec :
    decodeWord 0x15000000 = .error .unassignedOpcode ∧ decodeWord 0x7F000000 = .error .unassignedOpcode ∧
    decodeWord 0xFFFFFFFF = .error .unassignedOpcode ∧ decodeWord 0x89000004 = .error .immediateSelect ∧
    decodeWord 0x94000000 = .error .immediateSelect ∧ decodeWord 0x00200001 = .error (.nonzeroField .imm12) ∧
    decodeWord 0x80201005 = .error (.nonzeroField .rt) ∧ decodeWord 0x09100004 = .error (.nonzeroField .rd) ∧
    decodeWord 0x0F010003 = .error (.nonzeroField .rs) ∧ decodeWord 0x10320001 = .error (.nonzeroField .imm12) ∧
    decodeWord 0x14000001 = .error (.nonzeroField .imm12) ∧ decodeWord 0x14100000 = .error (.nonzeroField .rd) ∧
    decodeWord 0x00100000 = .error .reg1Destination ∧ decodeWord 0x10120000 = .error .reg1Destination ∧
    decodeWord 0x11120000 = .error .reg1Destination := by
  refine ⟨?_, ?_, ?_, ?_, ?_, ?_, ?_, ?_, ?_, ?_, ?_, ?_, ?_, ?_, ?_⟩ <;> rfl

theorem test_encode_words_of_the_spec :
    encode (.addImm 2 0 (-1)) = 0x80200FFF ∧ encode (.bgt 2 0 3) = 0x0C020003 ∧ encode (.jal 1 3) = 0x0F100003 ∧
    encode (.sc 3 2 0) = 0x13320000 ∧ encode .halt = 0x14000000 := by decide

/-! ## Small states -/

/-- A core with `x[2]` = a, `x[3]` = b and the program `halt`, at reset otherwise. -/
def coreWith (a b : Word) : Core :=
  { Core.reset Config.reference [0x14000000] with regs := ((Vector.replicate 16 0).set 2 a).set 3 b }

/-- A machine of the reference sizes with these cores. -/
def machine (cores : List Core) : State := { State.reset with cores := cores }

/-- One core, `x[2]` = a, `x[3]` = b. -/
def small (a b : Word) : State := machine [coreWith a b]

/-- `c` with line 1 (address 5 for tag 1) as given. -/
def withLine (st : Msi) (tag data : Word) (c : Core) : Core :=
  { c with cache := { c.cache with lines := [.invalid, ⟨st, tag, data⟩, .invalid, .invalid] } }

/-- `c` with instruction `i` as the occupant of stage `st`. -/
def holding (st : Stage) (i : Instr) (c : Core) : Core := { c with slots := c.slots.set st { content := .instr i } }

/-- `c` with a record in the Memory stage. -/
def inMemory (i : Instr) (addr sdata : Word) (ok : Bool) (c : Core) : Core :=
  { c with slots := { c.slots with memory := { content := .instr i, addr := addr, sdata := sdata, scOk := ok } } }

/-- One core whose stage `st` has the turn. -/
def inTurn (st : Stage) (c : Core) : State := (machine [c]).give (.stage 0 st)

/-- The next state of a result. -/
def nextOf : Result → Option State
  | .next s => some s
  | .fault _ => none
  | .refused _ => none

/-- The fault of a result. -/
def faultOf : Result → Option Fault
  | .next _ => none
  | .fault e => some e
  | .refused _ => none

/-- Core 0 after instruction `i` has passed Decode, Execute, Memory and Write-back there. -/
def passed (i : Instr) (s : State) : Option Core :=
  (nextOf (exec i (s.give (.stage 0 .decode)))).bind fun t1 =>
  (nextOf (exec i (t1.give (.stage 0 .execute)))).bind fun t2 =>
  (nextOf (exec i (t2.give (.stage 0 .memory)))).bind fun t3 =>
  (nextOf (exec i ((t3.applyDeferred 0).give (.stage 0 .writeBack)))).map fun t => t.core 0

/-- The register write that `i` leaves, from `x[2]` = a and `x[3]` = b. -/
def written (i : Instr) (a b : Word) : Option DeferredWrite := (passed i (small a b)).bind Core.dw

/-- `pc` and `branch_taken` after `i`, from `x[2]` = a and `x[3]` = b. -/
def jumped (i : Instr) (a b : Word) : Option (Word × Bool) :=
  (passed i (small a b)).map fun c => (c.pc, c.branchTaken)

/-! ## The ALU operations (2.2) -/

theorem test_add_overflow : written (.add 4 2 3) 0x7FFFFFFF 1 = some ⟨4, 0x80000000⟩ := by decide
theorem test_add_wraps : written (.add 2 2 3) 0xFFFFFFFF 1 = some ⟨2, 0⟩ := by decide
theorem test_addImm_minus_one : written (.addImm 4 2 (-1)) 5 9 = some ⟨4, 4⟩ := by decide
theorem test_sub : written (.sub 4 2 3) 5 7 = some ⟨4, 0xFFFFFFFE⟩ := by decide
theorem test_subImm : written (.subImm 4 2 1) 0x80000000 9 = some ⟨4, 0x7FFFFFFF⟩ := by decide
theorem test_and : written (.and 4 2 3) 0xFF0F 0x0FF0 = some ⟨4, 0x0F00⟩ := by decide
theorem test_andImm : written (.andImm 4 2 (-2048)) 0xDEADBEEF 9 = some ⟨4, 0xDEADB800⟩ := by decide
theorem test_or : written (.or 4 2 3) 0xFF0F 0x0FF0 = some ⟨4, 0xFFFF⟩ := by decide
theorem test_orImm : written (.orImm 4 2 (-2048)) 0xF 9 = some ⟨4, 0xFFFFF80F⟩ := by decide
theorem test_xor : written (.xor 4 2 3) 0xFF0F 0x0FF0 = some ⟨4, 0xF0FF⟩ := by decide
theorem test_xorImm : written (.xorImm 4 2 (-1)) 0xDEADBEEF 9 = some ⟨4, 0x21524110⟩ := by decide
theorem test_mul : written (.mul 4 2 3) 0x7FFFFFFF 0x7FFFFFFF = some ⟨4, 1⟩ := by decide
theorem test_mulImm : written (.mulImm 4 2 3) 0xFFFFFFF9 9 = some ⟨4, 0xFFFFFFEB⟩ := by decide
theorem test_register_0_discards : (passed (.add 0 2 3) (small 5 7)).map (fun c => c.dw) = some none := by decide

/-! ## Shifts (2.3) -/

theorem test_sll : written (.sll 4 2 3) 0x80000001 1 = some ⟨4, 2⟩ := by decide
theorem test_sllImm : written (.sllImm 4 2 31) 0xFFFFFFFF 9 = some ⟨4, 0x80000000⟩ := by decide
theorem test_srl : written (.srl 4 2 3) 0x80000000 31 = some ⟨4, 1⟩ := by decide
theorem test_srlImm : written (.srlImm 4 2 4) 0x800000F0 9 = some ⟨4, 0x0800000F⟩ := by decide
theorem test_sra : written (.sra 4 2 3) 0x80000000 31 = some ⟨4, 0xFFFFFFFF⟩ := by decide
theorem test_sraImm : written (.sraImm 4 2 1) 0xFFFFFFF9 9 = some ⟨4, 0xFFFFFFFC⟩ := by decide

/-- A shift by `b` in Execute. -/
def shiftStop (i : Instr) (b : Word) : Option Int :=
  match faultOf (exec i (inTurn .execute { coreWith 0 0 with slots := { Slots.bubbles with execute := { content := .instr i, a := 1, b := b } } })) with
  | some (.shiftFault _ n _) => some n
  | _ => none

theorem test_sll_faults_at_32 : shiftStop (.sll 4 2 3) 32 = some 32 := by decide
theorem test_srl_faults_at_minus_1 : shiftStop (.srl 4 2 3) 0xFFFFFFFF = some (-1) := by decide
theorem test_sra_faults_at_100 : shiftStop (.sra 4 2 3) 100 = some 100 := by decide
theorem test_sllImm_faults : shiftStop (.sllImm 4 2 (-1)) 0xFFFFFFFF = some (-1) := by decide

/-! ## Branches and JAL (2.4) -/

theorem test_beq_taken : jumped (.beq 2 3 9) 5 5 = some (9, true) := by decide
theorem test_beq_not_taken : jumped (.beq 2 3 9) 5 7 = some (0, false) := by decide
theorem test_bne_taken : jumped (.bne 2 3 (-1)) 5 7 = some (0xFFFFFFFF, true) := by decide
theorem test_bne_not_taken : jumped (.bne 2 3 9) 5 5 = some (0, false) := by decide
theorem test_blt_signed : jumped (.blt 2 3 9) 0x80000000 0x7FFFFFFF = some (9, true) := by decide
theorem test_blt_equal : jumped (.blt 2 3 9) 5 5 = some (0, false) := by decide
theorem test_bgt_signed : jumped (.bgt 2 3 9) 0 0xFFFFFFFF = some (9, true) := by decide
theorem test_bgt_not_taken : jumped (.bgt 2 3 9) 5 7 = some (0, false) := by decide
theorem test_ble_equal : jumped (.ble 2 3 9) 0xFFFFFFFF 0xFFFFFFFF = some (9, true) := by decide
theorem test_ble_not_taken : jumped (.ble 2 3 9) 7 5 = some (0, false) := by decide
theorem test_bge_equal : jumped (.bge 2 3 9) 0 0 = some (9, true) := by decide
theorem test_bge_signed_not_taken : jumped (.bge 2 3 9) 0xFFFFFFFF 0 = some (0, false) := by decide

/-- JAL at index 3 links to 4 in register 15, whatever its `rd` (R96, D7). -/
theorem test_jal :
    (passed (.jal 1 9) (machine [{ coreWith 0 0 with slots := { Slots.bubbles with decode := { content := .instr (.jal 1 9), ipc := 3 } } }])).map
      (fun c => (c.pc, c.branchTaken, c.dw)) = some (9, true, some ⟨15, 4⟩) := by decide

/-! ## Loads, stores, LL, SC, HALT (2.10) -/

theorem test_lw_hits : (passed (.lw 4 2 0) (machine [withLine .shared 1 42 (coreWith 5 0)])).map
    (fun c => (c.dw, c.cache.hits)) = some (some ⟨4, 42⟩, 1) := by decide
theorem test_lw_address_wraps : (passed (.lw 4 2 3) (machine [withLine .shared 1 42 (coreWith 0xFFFFFFFF 6)])).map
    (fun c => c.dw) = some (some ⟨4, 42⟩) := by decide
theorem test_sw_stores_in_its_modified_line : (passed (.sw 3 2 0) (machine [withLine .modified 1 42 (coreWith 5 77)])).map
    (fun c => (c.cache.lines[1]?, c.cache.hits, c.dw)) = some (some ⟨.modified, 1, 77⟩, 1, none) := by decide
theorem test_sw_0_stores_0 : (passed (.sw 0 2 0) (machine [withLine .modified 1 42 (coreWith 5 77)])).map
    (fun c => c.cache.lines[1]?) = some (some ⟨.modified, 1, 0⟩) := by decide
theorem test_ll_watches : (passed (.ll 4 2 0) (machine [withLine .shared 1 42 (coreWith 5 0)])).map
    (fun c => (c.dw, c.watch)) = some (some ⟨4, 42⟩, [(5, .watched)]) := by decide
theorem test_sc_succeeds :
    (passed (.sc 3 2 0) (machine [{ withLine .modified 1 42 (coreWith 5 77) with watch := [(5, .watched)] }])).map
      (fun c => (c.dw, c.watch, c.cache.lines[1]?)) =
    some (some ⟨3, 1⟩, [(5, .succeededFor 0)], some ⟨.modified, 1, 77⟩) := by decide
theorem test_sc_fails :
    (passed (.sc 3 2 0) (machine [{ withLine .modified 1 42 (coreWith 5 77) with watch := [(5, .succeededFor 1)] }])).map
      (fun c => (c.dw, c.watch, c.cache)) =
    some (some ⟨3, 0⟩, [(5, .succeededFor 1)], (withLine .modified 1 42 (coreWith 5 77)).cache) := by decide
theorem test_halt_drains : (passed .halt (machine [{ coreWith 0 0 with dw := some ⟨2, 8⟩ }])).map
    (fun c => (c.drained, c.regs[2], c.dw)) = some (true, 8, none) := by decide

/-- A miss freezes the core with its request, which an idle bus grants at once (R99, R125, R143). -/
theorem test_lw_miss :
    (nextOf (exec (.lw 4 2 0) (inTurn .memory (inMemory (.lw 4 2 0) 5 0 false (coreWith 5 0))))).map
      (fun t => ((t.core 0).pend, (t.core 0).stalled.decode, (t.core 0).cache.misses, (t.core 0).cache.memReads, t.memop)) =
    some (some ⟨.busRd, 5⟩, true, 1, 1, some ⟨.read, 5, 2⟩) := by decide
theorem test_sw_on_a_shared_line :
    (nextOf (exec (.sw 3 2 0) (inTurn .memory (withLine .shared 1 42 (inMemory (.sw 3 2 0) 5 77 false (coreWith 5 77)))))).map
      (fun t => ((t.core 0).pend, (t.core 0).cache.misses, (t.core 0).cache.lines[1]?)) =
    some (some ⟨.busRdX, 5⟩, 0, some ⟨.shared, 1, 42⟩) := by decide
theorem test_lw_outside_memory :
    (faultOf (exec (.lw 4 2 0) (inTurn .memory (inMemory (.lw 4 2 0) 64 0 false (coreWith 64 0))))).map Fault.code = some 6 := by decide
theorem test_suppressed_sc_outside_memory :
    (nextOf (exec (.sc 3 2 0) (inTurn .memory (inMemory (.sc 3 2 0) 64 0 false (coreWith 64 0))))).isSome = true := by decide

/-! ## The hazard check (2.5) -/

/-- `Hazard(i)` with the given occupants. -/
def hazardOf (i : Instr) (e m w : Content) : Nat :=
  Core.hazard { holding .decode i (coreWith 0 0) with occExecute := { content := e }, occMemory := { content := m }, occWriteBack := { content := w } }

theorem test_hazard_table :
    hazardOf (.add 3 2 0) (.instr (.addImm 2 0 7)) .bubble .bubble = 3 ∧
    hazardOf (.add 3 2 0) (.instr (.addImm 4 0 1)) (.instr (.addImm 2 0 7)) (.instr (.addImm 2 0 8)) = 2 ∧
    hazardOf (.add 2 2 2) (.instr (.addImm 3 0 1)) .bubble (.instr (.addImm 2 0 1)) = 1 ∧
    hazardOf (.addImm 3 2 5) (.instr (.addImm 5 0 1)) .bubble .bubble = 0 ∧
    hazardOf (.add 4 0 1) (.instr (.add 0 5 5)) .bubble .bubble = 0 ∧
    hazardOf (.sw 3 2 4) (.instr (.addImm 3 0 1)) .bubble .bubble = 3 ∧
    hazardOf (.lw 3 2 4) (.instr (.addImm 3 0 1)) .bubble .bubble = 0 ∧
    hazardOf (.add 3 2 0) (.instr (.sw 2 5 0)) .bubble .bubble = 0 ∧
    hazardOf (.add 4 15 0) .bubble (.instr (.jal 1 3)) .bubble = 2 ∧
    hazardOf (.jal 1 3) (.instr (.addImm 15 0 1)) .bubble .bubble = 0 := by decide

/-! ## The cache (E1, 2.6), the memory unit (2.7), the watch table (2.9) -/

theorem test_address_split :
    (lineTag 2 63, lineIndex 2 63, lineTag 2 0xFFFFFFFF, lineIndex 2 0xFFFFFFFF, lineTag 0 5, lineIndex 0 5) =
      (15, 3, 0x3FFFFFFF, 3, 5, 0) := by decide

/-- A cache at reset with 42 installed at address 5. -/
def cacheOf5 (w : Bool) : Cache := (Core.reset Config.reference []).cache.install 2 5 42 w

theorem test_cache_hit_on_match_only : ((cacheOf5 false).read 2 5).1 = some 42 ∧ ((cacheOf5 false).read 2 9).1 = none := by decide
theorem test_cache_write_needs_modified :
    ((cacheOf5 false).write 2 5 7).1 = false ∧ (((cacheOf5 true).write 2 5 7).2.read 2 5).1 = some 7 := by decide
theorem test_setBits_needs_a_match :
    ((cacheOf5 true).setBits 2 9 .invalid) = cacheOf5 true ∧ ((cacheOf5 true).setBits 2 5 .shared).getBits 2 5 = some .shared := by decide

theorem test_memory_latency_2 :
    let s := ({ State.reset with mem := [(5, 42)] }.beginRead 5).2
    s.memTick.1 = .noOp ∧ s.memTick.2.memTick.1 = .readCompleted ∧ s.memTick.2.memTick.2.memStaged = 42 := by decide
theorem test_memory_write :
    ({ State.reset with mem := [(5, 42)] }.beginWrite 5 0).2.memTick.2.memTick.2.mem = [] := by decide

/-- Three cores with these entries for address 8. -/
def watchers (a b c : List (Nat × Watch)) : State :=
  machine [{ coreWith 0 0 with watch := a }, { coreWith 0 0 with watch := b }, { coreWith 0 0 with watch := c }]

theorem test_watch_step_6 :
    (watchers [(8, .succeededFor 0)] [(8, .succeededFor 0)] [(8, .watched)]).checkAndConsume 1 8 =
      (false, watchers [(8, .succeededFor 0)] [(8, .succeededFor 0)] [(8, .succeededFor 1)]) := by decide
theorem test_watch_step_9 :
    (watchers [(8, .succeededFor 0)] [(8, .watched)] [(8, .succeededFor 1)]).checkAndConsume 1 8 =
      (true, watchers [(8, .succeededFor 0)] [(8, .succeededFor 1)] [(8, .succeededFor 1)]) := by decide

/-! ## Hypotheses met: encoding and the step -/

theorem test_meets_DecodeOfEncode : (Instr.add 15 0 1).wf = true ∧ (Instr.jal 1 (-2048)).wf = true ∧ Instr.halt.wf = true := by decide
theorem test_meets_EncodeOfDecode : decodeWord 0x80200FFF = .ok (.addImm 2 0 (-1)) := by rfl
theorem test_meets_DecoderAcceptsTheTable :
    decodeWord 0x11320000 = .ok (.sw 3 2 0) ∧ (0x11320000 : BitVec 32) &&& (Instr.sw 0 0 0).row.mask = (Instr.sw 0 0 0).row.pattern ∧
    rdField 0x11320000 ≠ 1 ∧ (0x0F100003 : BitVec 32) &&& (Instr.jal 0 0).row.mask = (Instr.jal 0 0).row.pattern ∧
    (Instr.jal 0 0).variant = .jumpAndLink := by
  refine ⟨rfl, ?_, ?_, ?_, rfl⟩ <;> decide

/-- One core about to fetch word 0 of this program. -/
def fetching (program : List Word) : State := inTurn .fetch { coreWith 5 7 with imem := program }

theorem test_meets_StepRunsTheFetchedInstruction :
    (fetching [0x00423000]).turn = .stage 0 .fetch ∧ ((fetching [0x00423000]).core 0).stalled.fetch = false ∧
    ((fetching [0x00423000]).core 0).hzHold = false ∧ ((fetching [0x00423000]).core 0).branchTaken = false ∧
    ((fetching [0x00423000]).core 0).imem[((fetching [0x00423000]).core 0).pc.toNat]? = some 0x00423000 ∧
    decodeWord 0x00423000 = .ok (.add 4 2 3) := by
  refine ⟨?_, ?_, ?_, ?_, ?_, ?_⟩ <;> rfl

/-- One core, stage `st` in turn, with `add $4,$2,$3` in it. -/
def occupied (st : Stage) : State := inTurn st (holding st (.add 4 2 3) (coreWith 5 7))

theorem not_produces_bubble (v : Slot) (rs : List Reg) (h : v.content = .bubble) : ¬ ProducesOneOf v rs := by
  rintro ⟨p, d, hp, -, -⟩
  rw [h] at hp
  cases hp

theorem test_meets_StepRunsTheOccupant_writeBack :
    (occupied .writeBack).turn = .stage 0 .writeBack ∧ ((occupied .writeBack).core 0).stalled.writeBack = false ∧
    ((occupied .writeBack).slot 0 .writeBack).content = .instr (.add 4 2 3) := by decide
theorem test_meets_StepRunsTheOccupant_memory :
    (occupied .memory).turn = .stage 0 .memory ∧ ((occupied .memory).core 0).stalled.memory = false ∧
    ((occupied .memory).slot 0 .memory).content = .instr (.add 4 2 3) := by decide
theorem test_meets_StepRunsTheOccupant_execute :
    (occupied .execute).turn = .stage 0 .execute ∧ ((occupied .execute).core 0).stalled.execute = false ∧
    ((occupied .execute).slot 0 .execute).content = .instr (.add 4 2 3) := by decide
theorem test_meets_StepRunsTheOccupant_decode :
    (occupied .decode).turn = .stage 0 .decode ∧ ((occupied .decode).core 0).stalled.decode = false ∧
    ((occupied .decode).slot 0 .decode).content = .instr (.add 4 2 3) ∧ ((occupied .decode).core 0).hzCount = 0 ∧
    ¬ Produces ((occupied .decode).core 0).occExecute (.add 4 2 3) ∧ ¬ Produces ((occupied .decode).core 0).occMemory (.add 4 2 3) ∧
    ¬ Produces ((occupied .decode).core 0).occWriteBack (.add 4 2 3) :=
  ⟨rfl, rfl, rfl, rfl, not_produces_bubble _ _ rfl, not_produces_bubble _ _ rfl, not_produces_bubble _ _ rfl⟩

/-- A stalled stage, and a Bubble in each stage. -/
theorem test_meets_StepRunsTheOccupant_around :
    let stalled := inTurn .execute { holding .execute (.add 4 2 3) (coreWith 5 7) with stalled := { execute := true } }
    stalled.turn = .stage 0 .execute ∧ (stalled.core 0).stalled.get .execute = true ∧
    (∀ st ∈ [Stage.writeBack, .memory, .execute, .decode],
      (inTurn st (coreWith 5 7)).turn = .stage 0 st ∧ ((inTurn st (coreWith 5 7)).core 0).stalled.get st = false ∧
      ((inTurn st (coreWith 5 7)).slot 0 st).content = .bubble ∧ ((inTurn st (coreWith 5 7)).core 0).hzCount = 0) := by decide

theorem test_meets_PlacedWordRunsNext :
    0 < State.reset.nCores ∧ 0x14000000 < 2 ^ 32 ∧ decodeTableWord 32 0x14000000 = some .halt := by
  refine ⟨?_, ?_, ?_⟩ <;> first | rfl | decide
theorem test_placed_word_runs :
    (nextOf (step (State.reset.withFetchWord 32 0x00423000))).map (fun t => ((t.core 0).slots.decode.content, (t.core 0).pc)) =
      some (.instr (.add 4 2 3), 1) := by decide

theorem test_meets_CycleStartLatchesTheOccupants :
    let s := (machine [holding .execute .halt (coreWith 5 7)]).give (.cycleStart 0)
    s.turn = .cycleStart 0 ∧ 0 < s.nCores ∧ (s.core 0).drained = false := by decide

theorem test_meets_FetchEntersThePipeline : (fetching []).turn = .stage 0 .fetch ∧ 0 < (fetching []).nCores := by decide
theorem test_meets_FetchPastTheProgramFaults :
    (fetching []).turn = .stage 0 .fetch ∧ ((fetching []).core 0).stalled.fetch = false ∧ ((fetching []).core 0).hzHold = false ∧
    ((fetching []).core 0).branchTaken = false ∧ ((fetching []).core 0).imem.length ≤ ((fetching []).core 0).pc.toNat := by decide

/-! ## Hypotheses met: the instructions -/

/-- AddSubResults, LogicResults, MulResults. -/
theorem test_meets_the_results : 0 < (small 5 7).nCores ∧ (0 : Reg) ≠ 1 ∧ (15 : Reg) ≠ 1 := by decide
/-- LogicalShiftResults, ArithmeticShiftResults, at both ends of the range of amounts. -/
theorem test_meets_the_shift_results :
    0 < (small 5 31).nCores ∧ (4 : Reg) ≠ 1 ∧ 31 ≤ 31 ∧ ((small 5 31).reg 0 3).toInt = (31 : Nat) ∧ (31 : Imm).toInt = (31 : Nat) ∧
    ((small 5 31).reg 0 0).toInt = (0 : Nat) ∧ (0 : Imm).toInt = (0 : Nat) := by decide
theorem test_meets_ShiftAmountOutsideFaults :
    let s := fun b : Word => inTurn .execute { coreWith 0 0 with slots := { Slots.bubbles with execute := { content := .instr (.sll 4 2 3), b := b } } }
    (s 32).turn = .stage 0 .execute ∧ 31 < ((s 32).slot 0 .execute).b.toInt ∧ ((s 0xFFFFFFFF).slot 0 .execute).b.toInt < 0 := by decide
/-- BranchesDecideOnTheirCondition (taken and not), JalLinksAndJumps, HaltDrains. -/
theorem test_meets_the_branches :
    0 < (small 5 5).nCores ∧ (small 5 5).reg 0 2 = (small 5 5).reg 0 3 ∧ (small 5 7).reg 0 2 ≠ (small 5 7).reg 0 3 := by decide

theorem test_meets_DrainedCoreStaysStopped_drained :
    let s := (machine [{ coreWith 0 0 with drained := true }, coreWith 0 0]).give (.cycleStart 0)
    0 < s.nCores ∧ (∃ t, step s = .next t) ∧ (s.core 0).drained = true ∧ ∀ st, s.turn ≠ .stage 0 st :=
  ⟨by decide, ⟨_, rfl⟩, rfl, by intro st h; cases h⟩
theorem test_meets_DrainedCoreStaysStopped_draining :
    let s := inTurn .writeBack (holding .writeBack .halt (coreWith 0 0))
    0 < s.nCores ∧ (s.core 0).drained = false ∧ ∃ t, step s = .next t ∧ (t.core 0).drained = true :=
  ⟨by decide, rfl, _, rfl, rfl⟩

/-- One core that holds address 5 in state `st`, with `x[2]` = 5 and `x[3]` = 0. -/
def holdsFive (st : Msi) : State := machine [withLine st 1 42 (coreWith 5 0)]

theorem shaped_holdsFive (st : Msi) : (holdsFive st).Shaped :=
  ⟨rfl, by intro c hc; obtain rfl := List.mem_singleton.mp hc; exact ⟨rfl, rfl⟩⟩

theorem test_meets_LoadHitResults :
    0 < (holdsFive .shared).nCores ∧ (4 : Reg) ≠ 1 ∧ (holdsFive .shared).Shaped ∧
    (5 : Word) = BitVec.ofNat 32 (((holdsFive .shared).reg 0 2).toNat + ((holdsFive .shared).reg 0 3).toNat) ∧
    (5 : Word).toNat < (holdsFive .shared).cfg.memWords ∧ (holdsFive .shared).bits 0 5 ≠ none :=
  ⟨by decide, by decide, shaped_holdsFive _, by decide, by decide, by decide⟩
theorem test_meets_StoreHitResults :
    0 < (holdsFive .modified).nCores ∧ (4 : Reg) ≠ 1 ∧
    (5 : Word) = BitVec.ofNat 32 (((holdsFive .modified).reg 0 2).toNat + ((holdsFive .modified).reg 0 3).toNat) ∧
    (5 : Word).toNat < (holdsFive .modified).cfg.memWords ∧ (holdsFive .modified).bits 0 5 = some .modified := by decide

/-- As `holdsFive .modified`, with this entry for address 5. -/
def watchesFive (w : Watch) : State := machine [{ withLine .modified 1 42 (coreWith 5 0) with watch := watchWrite [] 5 w }]

theorem test_meets_StoreConditionalResults_failing :
    0 < (watchesFive (.succeededFor 1)).nCores ∧ (3 : Reg) ≠ 1 ∧ (watchesFive (.succeededFor 1)).Shaped ∧
    (5 : Word) = BitVec.ofNat 32 (((watchesFive (.succeededFor 1)).reg 0 2).toNat + ((watchesFive (.succeededFor 1)).reg 0 3).toNat) ∧
    ∃ j, j ≠ 0 ∧ (watchesFive (.succeededFor 1)).watchOf 0 5 = .succeededFor j :=
  ⟨by decide, by decide, ⟨rfl, by intro c hc; obtain rfl := List.mem_singleton.mp hc; exact ⟨rfl, rfl⟩⟩, by decide, 1, by decide, rfl⟩
theorem test_meets_StoreConditionalResults_succeeding :
    0 < (watchesFive .watched).nCores ∧ (3 : Reg) ≠ 1 ∧ (watchesFive .watched).Shaped ∧
    (5 : Word) = BitVec.ofNat 32 (((watchesFive .watched).reg 0 2).toNat + ((watchesFive .watched).reg 0 3).toNat) ∧
    (∀ j, j ≠ 0 → (watchesFive .watched).watchOf 0 5 ≠ .succeededFor j) ∧
    (5 : Word).toNat < (watchesFive .watched).cfg.memWords ∧ (watchesFive .watched).bits 0 5 = some .modified :=
  ⟨by decide, by decide, ⟨rfl, by intro c hc; obtain rfl := List.mem_singleton.mp hc; exact ⟨rfl, rfl⟩⟩, by decide,
    fun j _ h => (nomatch h), by decide, by decide⟩

/-- One core, address 5 held in state `st`, `i` in the Memory stage with this address. -/
def accessing (i : Instr) (st : Msi) (addr : Word) : State := inTurn .memory (withLine st 1 42 (inMemory i addr 77 true (coreWith 5 0)))

/-- The three clauses: outside memory, a hit, a miss on the last word of memory. -/
theorem test_meets_MemReadHitMissOrFault :
    (accessing (.lw 4 2 3) .shared 64).turn = .stage 0 .memory ∧ 0 < (accessing (.lw 4 2 3) .shared 64).nCores ∧
    ((accessing (.lw 4 2 3) .shared 64).slot 0 .memory).addr.toNat ≥ (accessing (.lw 4 2 3) .shared 64).cfg.memWords ∧
    ((accessing (.ll 4 2 3) .shared 5).slot 0 .memory).addr.toNat < (accessing (.ll 4 2 3) .shared 5).cfg.memWords ∧
    (accessing (.ll 4 2 3) .shared 5).bits 0 ((accessing (.ll 4 2 3) .shared 5).slot 0 .memory).addr ≠ none ∧
    ((accessing (.lw 4 2 3) .shared 63).slot 0 .memory).addr.toNat < (accessing (.lw 4 2 3) .shared 63).cfg.memWords ∧
    (accessing (.lw 4 2 3) .shared 63).bits 0 ((accessing (.lw 4 2 3) .shared 63).slot 0 .memory).addr = none := by decide
/-- The three clauses: outside memory, a store, a miss on a Shared line; with SC not suppressed. -/
theorem test_meets_MemWriteStoreMissOrFault :
    (accessing (.sc 4 2 3) .modified 64).turn = .stage 0 .memory ∧ 0 < (accessing (.sc 4 2 3) .modified 64).nCores ∧
    ((accessing (.sc 4 2 3) .modified 64).slot 0 .memory).scOk = true ∧
    ((accessing (.sc 4 2 3) .modified 64).slot 0 .memory).addr.toNat ≥ (accessing (.sc 4 2 3) .modified 64).cfg.memWords ∧
    ((accessing (.sw 4 2 3) .modified 5).slot 0 .memory).addr.toNat < (accessing (.sw 4 2 3) .modified 5).cfg.memWords ∧
    (accessing (.sw 4 2 3) .modified 5).bits 0 ((accessing (.sw 4 2 3) .modified 5).slot 0 .memory).addr = some .modified ∧
    ((accessing (.sw 4 2 3) .shared 5).slot 0 .memory).addr.toNat < (accessing (.sw 4 2 3) .shared 5).cfg.memWords ∧
    (accessing (.sw 4 2 3) .shared 5).bits 0 ((accessing (.sw 4 2 3) .shared 5).slot 0 .memory).addr ≠ some .modified := by decide
theorem test_meets_Register1DestinationIsFatal :
    (inTurn .decode (coreWith 0 0)).turn = .stage 0 .decode ∧ (Instr.sw 1 2 3).variant = .memoryOp ∧ (Instr.sw 1 2 3).rd = 1 ∧
    (Instr.addImm 1 2 3).variant = .registerOp ∧ (Instr.addImm 1 2 3).rd = 1 := by decide

/-- `sw $3,$2($20)`, with `rt` out of range. -/
def wideStore : WideRecord := { op := some (.sw 0 0 0), rd := 3, rs := 2, rt := 20 }

/-- One core with `wideStore` in Decode and these occupants. -/
def wideWaiting (e m w : Content) : State :=
  inTurn .decode
    { coreWith 0 0 with
      slots := { Slots.bubbles with decode := { content := .corrupt (.registerRange wideStore) } }
      occExecute := { content := e }, occMemory := { content := m }, occWriteBack := { content := w } }

/-- The sources are the indexes in range that R117 names for the opcode. -/
theorem test_wide_sources :
    wideStore.sources = [2, 3] ∧ ({ wideStore with op := some (.lw 0 0 0) } : WideRecord).sources = [2] ∧
    ({ wideStore with op := some (.jal 0 0) } : WideRecord).sources = [] ∧ ({ wideStore with op := none } : WideRecord).sources = [] := by
  decide

/-- R169: it waits on its hazard, and raises when the wait ends. -/
theorem test_wide_waits :
    (nextOf (step (wideWaiting .bubble (.instr (.addImm 3 0 1)) .bubble))).map (fun t => ((t.core 0).hzCount, (t.core 0).hzHold)) =
      some (1, true) ∧
    (faultOf (step (wideWaiting .bubble .bubble .bubble))).map Fault.code = some 2 := by decide

/-- A record with an index over 15 in Decode, with a producer nearest in each stage and with none. -/
theorem test_meets_Register1DestinationIsFatal_wide :
    let p : Content := .instr (.addImm 3 0 1)
    let s := wideWaiting
    (s p p p).turn = .stage 0 .decode ∧ 0 < (s p p p).nCores ∧ ((s p p p).core 0).stalled.decode = false ∧
    ((s p p p).core 0).hzCount = 0 ∧ ((s p p p).slot 0 .decode).content = .corrupt (.registerRange wideStore) ∧
    ProducesOneOf ((s p p p).core 0).occExecute wideStore.sources ∧
    ¬ ProducesOneOf ((s .bubble p p).core 0).occExecute wideStore.sources ∧
    ProducesOneOf ((s .bubble p p).core 0).occMemory wideStore.sources ∧
    ¬ ProducesOneOf ((s .bubble .bubble p).core 0).occMemory wideStore.sources ∧
    ProducesOneOf ((s .bubble .bubble p).core 0).occWriteBack wideStore.sources ∧
    ¬ ProducesOneOf ((s .bubble .bubble .bubble).core 0).occWriteBack wideStore.sources :=
  ⟨rfl, Nat.zero_lt_one, rfl, rfl, rfl, ⟨_, 3, rfl, rfl, by decide⟩, not_produces_bubble _ _ rfl, ⟨_, 3, rfl, rfl, by decide⟩,
    not_produces_bubble _ _ rfl, ⟨_, 3, rfl, rfl, by decide⟩, not_produces_bubble _ _ rfl⟩
/-- A record with none of the opcodes in Execute. -/
theorem test_meets_Register1DestinationIsFatal_opcode :
    let s := fun st d => inTurn st { coreWith 0 0 with slots := Slots.set .bubbles st { content := .corrupt d } }
    (s .execute .opcode).turn = .stage 0 .execute ∧ ((s .execute .opcode).core 0).stalled.execute = false ∧
    ((s .execute .opcode).slot 0 .execute).content = .corrupt .opcode := by decide

/-! ## Hypotheses met: hazards, the write delay, the flush -/

/-- One core with `add $4,$2,$3` in Decode and these occupants. -/
def hazarding (e m w : Content) : State :=
  inTurn .decode
    { holding .decode (.add 4 2 3) (coreWith 5 7) with
      occExecute := { content := e }, occMemory := { content := m }, occWriteBack := { content := w } }

theorem test_meets_HazardStallLengths :
    let p : Content := .instr (.addImm 3 0 1)
    (hazarding p p p).turn = .stage 0 .decode ∧ 0 < (hazarding p p p).nCores ∧ ((hazarding p p p).core 0).stalled.decode = false ∧
    ((hazarding p p p).core 0).hzCount = 0 ∧ ((hazarding p p p).slot 0 .decode).content = .instr (.add 4 2 3) ∧
    Produces ((hazarding p p p).core 0).occExecute (.add 4 2 3) ∧
    (¬ Produces ((hazarding .bubble p p).core 0).occExecute (.add 4 2 3) ∧ Produces ((hazarding .bubble p p).core 0).occMemory (.add 4 2 3)) ∧
    ¬ Produces ((hazarding .bubble .bubble p).core 0).occExecute (.add 4 2 3) ∧
    ¬ Produces ((hazarding .bubble .bubble p).core 0).occMemory (.add 4 2 3) ∧
    Produces ((hazarding .bubble .bubble p).core 0).occWriteBack (.add 4 2 3) ∧
    ¬ Produces ((hazarding .bubble .bubble .bubble).core 0).occWriteBack (.add 4 2 3) :=
  ⟨rfl, by decide, rfl, rfl, rfl, ⟨_, 3, rfl, rfl, by decide⟩, ⟨not_produces_bubble _ _ rfl, _, 3, rfl, rfl, by decide⟩,
    not_produces_bubble _ _ rfl, not_produces_bubble _ _ rfl, ⟨_, 3, rfl, rfl, by decide⟩, not_produces_bubble _ _ rfl⟩
theorem test_meets_HazardStallCountsDown :
    let d := inTurn .decode { coreWith 0 0 with hzCount := 1 }
    let f := inTurn .fetch { coreWith 0 0 with hzHold := true }
    0 < d.nCores ∧ d.turn = .stage 0 .decode ∧ (d.core 0).stalled.decode = false ∧ (d.core 0).hzCount = 0 + 1 ∧
    0 < f.nCores ∧ f.turn = .stage 0 .fetch ∧ (f.core 0).hzHold = true := by decide
theorem test_meets_DecodeReadsOnlyItsSources :
    (occupied .decode).turn = .stage 0 .decode ∧ 0 < (occupied .decode).nCores ∧ (5 : Reg) ∉ sourceRegs (.add 4 2 3) ∧
    (5 : Reg) ≠ 0 ∧ (5 : Reg) ≠ 1 ∧ ∃ t, exec (.add 4 2 3) (occupied .decode) = .next t :=
  ⟨rfl, by decide, by decide, by decide, by decide, _, rfl⟩
theorem test_meets_WriteBackRecordsOnlyTheDestination :
    (occupied .writeBack).turn = .stage 0 .writeBack ∧ 0 < (occupied .writeBack).nCores ∧ destReg (.sw 4 2 3) = none ∧
    destReg (.add 0 2 3) = some 0 ∧ destReg (.sc 4 2 3) = some 4 := by decide
theorem test_meets_DeferredWriteIsAppliedNext :
    let s := fun b : Bool => inTurn .writeBack { coreWith 5 7 with dw := some ⟨2, 9⟩, stalled := { writeBack := b } }
    (s false).turn = .stage 0 .writeBack ∧ 0 < (s false).nCores ∧ ((s false).core 0).dw = some ⟨2, 9⟩ ∧
    ((s false).core 0).stalled.writeBack = false ∧ (s true).turn = .stage 0 .writeBack ∧ ((s true).core 0).dw = some ⟨2, 9⟩ ∧
    ((s true).core 0).stalled.writeBack = true := by decide

/-- One core with `i` in Decode, `x[2]` = a and `x[3]` = b. -/
def branching (i : Instr) (a b : Word) : State := inTurn .decode (holding .decode i (coreWith a b))

theorem branching_ready (i : Instr) (a b : Word) :
    (branching i a b).turn = .stage 0 .decode ∧ 0 < (branching i a b).nCores ∧ ((branching i a b).core 0).stalled.decode = false ∧
    ((branching i a b).core 0).stalled.fetch = false ∧ ((branching i a b).core 0).hzCount = 0 ∧
    ((branching i a b).slot 0 .decode).content = .instr i ∧ ¬ Produces ((branching i a b).core 0).occExecute i ∧
    ¬ Produces ((branching i a b).core 0).occMemory i ∧ ¬ Produces ((branching i a b).core 0).occWriteBack i :=
  ⟨rfl, Nat.zero_lt_one, rfl, rfl, rfl, rfl, not_produces_bubble _ _ rfl, not_produces_bubble _ _ rfl, not_produces_bubble _ _ rfl⟩

/-- With `branching_ready`, at the boundary of each condition. -/
theorem test_meets_TakenBranchFlushesOneSlot :
    (branching (.beq 2 3 9) 5 5).reg 0 2 = (branching (.beq 2 3 9) 5 5).reg 0 3 ∧
    (branching (.bne 2 3 9) 5 6).reg 0 2 ≠ (branching (.bne 2 3 9) 5 6).reg 0 3 ∧
    ((branching (.blt 2 3 9) 5 6).reg 0 2).toInt < ((branching (.blt 2 3 9) 5 6).reg 0 3).toInt ∧
    ((branching (.bgt 2 3 9) 6 5).reg 0 2).toInt > ((branching (.bgt 2 3 9) 6 5).reg 0 3).toInt ∧
    ((branching (.ble 2 3 9) 5 5).reg 0 2).toInt ≤ ((branching (.ble 2 3 9) 5 5).reg 0 3).toInt ∧
    ((branching (.bge 2 3 9) 5 5).reg 0 2).toInt ≥ ((branching (.bge 2 3 9) 5 5).reg 0 3).toInt := by decide

/-! ## Hypotheses met: cache, bus, watch table, memory -/

theorem test_meets_AddressSplitJoins : lineTag 2 9 = lineTag 2 9 ∧ lineIndex 2 9 = lineIndex 2 9 := by decide
theorem test_meets_CacheReadHitsOnMatch :
    (((cacheOf5 false).line 2 5).state ≠ .invalid ∧ ((cacheOf5 false).line 2 5).tag = lineTag 2 5) ∧
    ¬ (((cacheOf5 false).line 2 9).state ≠ .invalid ∧ ((cacheOf5 false).line 2 9).tag = lineTag 2 9) := by decide
theorem test_meets_SetBitsChangesOneState :
    (cacheOf5 true).getBits 2 9 = none ∧ (cacheOf5 true).getBits 2 5 ≠ none ∧ (9 : Word) ≠ 5 := by decide
theorem test_meets_InstallReadWriteLaws :
    (cacheOf5 true).lines.length = 2 ^ 2 ∧ lineIndex 2 9 = lineIndex 2 5 ∧ (9 : Word) ≠ 5 ∧ lineIndex 2 6 ≠ lineIndex 2 5 ∧
    ((cacheOf5 false).write 2 5 7).1 = false := by decide

/-- An address of which a core has a copy selects a line of its cache that holds it. -/
theorem bits_some (s : State) (k : Nat) (a : Word) (st : Msi) (h : s.bits k a = some st) :
    st ≠ .invalid ∧ ∃ l, (s.core k).cache.lines[lineIndex s.cfg.indexBits a]? = some l ∧ l.state = st ∧
      l.tag = lineTag s.cfg.indexBits a := by
  unfold State.bits Cache.getBits Cache.hasCopy at h
  split at h
  · rename_i hc
    simp only [Bool.and_eq_true, decide_eq_true_eq] at hc
    cases h
    refine ⟨hc.1, ?_⟩
    cases hl : (s.core k).cache.lines[lineIndex s.cfg.indexBits a]? with
    | none => simp [Cache.line, List.getD_eq_getElem?_getD, hl, Line.invalid] at hc
    | some l => exact ⟨l, rfl, by simp [Cache.line, List.getD_eq_getElem?_getD, hl], by simpa [Cache.line, List.getD_eq_getElem?_getD, hl] using hc.2⟩
  · cases h

/-- A core all of whose lines are Invalid has no copy. -/
theorem bits_none (s : State) (k : Nat) (a : Word) (h : ∀ l ∈ (s.core k).cache.lines, l.state = .invalid) : s.bits k a = none := by
  cases hb : s.bits k a with
  | none => rfl
  | some st =>
    obtain ⟨h1, l, h2, h3, -⟩ := bits_some s k a st hb
    exact absurd (h3 ▸ h l (List.mem_of_getElem? h2)) h1

/-- Three cores: 0 requests address 5, 1 holds it in state `st`, 2 holds nothing. -/
def snooping (cmd : BusCmd) (st : Msi) : State :=
  machine
    [{ coreWith 0 0 with
        pend := some ⟨cmd, 5⟩
        stalled := { fetch := true, decode := true, execute := true, memory := true }
        stallNext := { writeBack := true } },
      withLine st 1 42 (coreWith 0 0), coreWith 0 0]

theorem lines_snooping (cmd : BusCmd) (st : Msi) (k : Nat) (h : k ≠ 1) :
    ∀ l ∈ ((snooping cmd st).core k).cache.lines, l.state = .invalid := by
  match k, h with
  | 0, _ => intro l hl; simp_all [snooping, machine, State.core, coreWith, Core.reset, Config.nLines, Config.reference, State.reset, State.boot, Line.invalid]
  | 1, h => exact absurd rfl h
  | k + 2, _ =>
    intro l hl
    cases k <;>
      simp_all [snooping, machine, State.core, coreWith, Core.reset, Config.nLines, Config.reference, State.reset, State.boot, Line.invalid]

theorem exclusive_snooping (cmd : BusCmd) (st : Msi) : (snooping cmd st).Exclusive := by
  intro j k a hjk hj
  by_cases hk : k = 1
  · subst hk
    rw [bits_none _ j a (lines_snooping cmd st j hjk)] at hj
    cases hj
  · exact bits_none _ k a (lines_snooping cmd st k hk)

theorem shaped_snooping (cmd : BusCmd) (st : Msi) : (snooping cmd st).Shaped := by
  refine ⟨rfl, ?_⟩
  intro c hc
  simp only [snooping, machine, List.mem_cons, List.not_mem_nil, or_false] at hc
  rcases hc with rfl | rfl | rfl <;> exact ⟨rfl, rfl⟩

theorem test_meets_BusRdGrant :
    0 < (snooping .busRd .modified).nCores ∧ ((snooping .busRd .modified).core 0).pend = some ⟨.busRd, 5⟩ ∧
    (snooping .busRd .modified).memop = none ∧ (snooping .busRd .modified).Exclusive ∧
    (snooping .busRd .modified).bits 1 5 = some .modified ∧ (snooping .busRd .modified).Shaped ∧
    ((snooping .busRd .modified).grant 0).txn = some ⟨0, .busRd, 5, .flush 42⟩ :=
  ⟨by decide, by decide, rfl, exclusive_snooping _ _, by decide, shaped_snooping _ _, by decide⟩
theorem test_meets_BusRdGrant_no_modified :
    (snooping .busRd .shared).Exclusive ∧ (∀ j, j < 3 → j ≠ 0 → (snooping .busRd .shared).bits j 5 ≠ some .modified) ∧
    (snooping .busRd .shared).bits 1 5 = some .shared ∧ (∀ i, i < 1 → i ≠ 0 → (snooping .busRd .shared).bits i 5 ≠ some .shared) ∧
    (snooping .busRd .invalid).Exclusive ∧ (∀ j, j < 3 → j ≠ 0 → (snooping .busRd .invalid).bits j 5 = none) :=
  ⟨exclusive_snooping _ _, by decide, by decide, by decide, exclusive_snooping _ _, by decide⟩
theorem test_meets_BusRdXGrant :
    0 < (snooping .busRdX .modified).nCores ∧ ((snooping .busRdX .modified).core 0).pend = some ⟨.busRdX, 5⟩ ∧
    (snooping .busRdX .modified).memop = none ∧ (snooping .busRdX .modified).Exclusive ∧
    (snooping .busRdX .modified).bits 1 5 = some .modified ∧ (snooping .busRdX .modified).Shaped ∧
    ((snooping .busRdX .modified).grant 0).txn = some ⟨0, .busRdX, 5, .cacheSupply 42⟩ :=
  ⟨by decide, by decide, rfl, exclusive_snooping _ _, by decide, shaped_snooping _ _, by decide⟩
theorem test_meets_BusRdXGrant_no_modified :
    (snooping .busRdX .shared).Exclusive ∧ (∀ j, j < 3 → j ≠ 0 → (snooping .busRdX .shared).bits j 5 ≠ some .modified) ∧
    (snooping .busRdX .shared).bits 1 5 = some .shared ∧ (∀ i, i < 1 → i ≠ 0 → (snooping .busRdX .shared).bits i 5 ≠ some .shared) ∧
    (snooping .busRdX .invalid).Exclusive ∧ (∀ j, j < 3 → j ≠ 0 → (snooping .busRdX .invalid).bits j 5 = none) :=
  ⟨exclusive_snooping _ _, by decide, by decide, by decide, exclusive_snooping _ _, by decide⟩

/-- The transaction of core 0 in flight, with this source. -/
def serving (src : Source) : State := { snooping .busRd .shared with txn := some ⟨0, .busRd, 5, src⟩, memStaged := 42 }

theorem test_meets_BusTickCompletesOrGrants_completing (src : Source) :
    (serving src).Shaped ∧ (serving src).txn = some ⟨0, .busRd, 5, src⟩ ∧ 0 < (serving src).nCores ∧
    (serving (.cacheSupply 42)).txn = some ⟨0, .busRd, 5, .cacheSupply 42⟩ ∧ (serving .memRead).memStaged = 42 ∧
    (serving (.flush 42)).txn = some ⟨0, .busRd, 5, .flush 42⟩ :=
  ⟨shaped_snooping .busRd .shared, rfl, Nat.zero_lt_succ 2, rfl, rfl, rfl⟩
theorem test_meets_BusTickCompletesOrGrants_waiting :
    (serving .memRead).Shaped ∧ (serving .memRead).txn = some ⟨0, .busRd, 5, .memRead⟩ ∧ MemResult.noOp ≠ .readCompleted ∧
    MemResult.noOp ≠ .writeCompleted := ⟨shaped_snooping .busRd .shared, rfl, by decide, by decide⟩
theorem test_meets_BusTickCompletesOrGrants_idle :
    (holdsFive .shared).Shaped ∧ (holdsFive .shared).txn = none ∧ (∀ j, j < 1 → ((holdsFive .shared).core j).pend = none) ∧
    (snooping .busRd .shared).Shaped ∧ (snooping .busRd .shared).txn = none ∧
    ((snooping .busRd .shared).core 0).pend = some ⟨.busRd, 5⟩ ∧ ∀ i, i < 0 → ((snooping .busRd .shared).core i).pend = none :=
  ⟨shaped_holdsFive _, rfl, by decide, shaped_snooping _ _, rfl, by decide, by decide⟩

/-- SetWatchMarksOneEntry, CheckAndConsumeOutcome. -/
theorem test_meets_the_watch_table :
    (watchesFive (.succeededFor 1)).Shaped ∧ 0 < (watchesFive (.succeededFor 1)).nCores ∧
    (∃ t, step (watchesFive (.succeededFor 1)) = .next t) ∧ (watchesFive (.succeededFor 1)).watchOf 0 5 ≠ .notWatched ∧
    (watchers [(8, .succeededFor 0)] [(8, .succeededFor 0)] [(8, .watched)]).watchOf 2 8 = .watched ∧
    ((watchers [(8, .succeededFor 0)] [(8, .watched)] [(8, .succeededFor 1)]).checkAndConsume 1 8).1 = true :=
  ⟨⟨rfl, by intro c hc; obtain rfl := List.mem_singleton.mp hc; exact ⟨rfl, rfl⟩⟩, by decide, ⟨_, rfl⟩, by decide, by decide, by decide⟩
theorem test_meets_OnlyLlAndScTouchTheWatchTable :
    (∃ t, step (occupied .execute) = .next t) ∧
    ∀ k rd rs rt, (occupied .execute).turn = .stage k .execute →
      ((occupied .execute).slot k .execute).content ≠ .instr (.ll rd rs rt) ∧
      ((occupied .execute).slot k .execute).content ≠ .instr (.sc rd rs rt) :=
  ⟨⟨_, rfl⟩, by
    intro k rd rs rt h
    cases h
    exact ⟨fun h => (nomatch h), fun h => (nomatch h)⟩⟩
/-- A step that grants and a step that completes (B1 of 2.8 has the events). -/
theorem test_meets_BusEventsLogTheTransactions :
    (nextOf (step ((snooping .busRd .shared).give (.bus .noOp)))).map (fun t => t.events) =
      some [⟨.granted, 0, 0, .busRd, 5, .cacheSupply⟩] ∧
    (nextOf (step ((serving (.cacheSupply 42)).give (.bus .noOp)))).map (fun t => t.events) =
      some [⟨.completed, 0, 0, .busRd, 5, .cacheSupply⟩] := by decide
theorem test_meets_BeginIsRejectedWhileBusy :
    { State.reset with memop := some ⟨.read, 5, 2⟩ }.memop ≠ none ∧ State.reset.memop = none := by decide
/-- At the least latency, 1, and at 2. -/
theorem test_meets_MemoryLatencyIsExact :
    let s := { State.reset with cfg := { Config.reference with memLatency := 1 } }
    s.memop = none ∧ s.Shaped ∧ s.cfg.memLatency = 0 + 1 ∧ State.reset.memop = none ∧ State.reset.Shaped ∧
    State.reset.cfg.memLatency = 1 + 1 ∧ 0 < 1 := by
  refine ⟨rfl, ⟨rfl, ?_⟩, rfl, rfl, ⟨rfl, ?_⟩, rfl, Nat.zero_lt_one⟩ <;>
    (intro c hc; obtain rfl := List.mem_singleton.mp hc; exact ⟨rfl, rfl⟩)

/-! ## Hypotheses met: the invariants, in a state in which a Flush for core 1's BusRd is in flight -/

/-- Core 0 holds address 5 Shared with the word being flushed; core 1 is frozen for it; the memory's turn. -/
def flushing : State :=
  { machine
      [{ withLine .shared 1 7 (coreWith 5 7) with imem := [0x00423000, 0x14000000], dw := some ⟨2, 9⟩ },
        { coreWith 5 0 with
          pend := some ⟨.busRd, 5⟩
          stalled := { fetch := true, decode := true, execute := true, memory := true }
          stallNext := { writeBack := true }
          slots := { Slots.bubbles with memory := { content := .instr (.lw 4 2 3), addr := 5 } } }] with
    txn := some ⟨1, .busRd, 5, .flush 7⟩
    mem := [(5, 42)]
    memop := some ⟨.write 7, 5, 2⟩
    turn := .memory }

theorem cores_flushing (c : Core) (h : c ∈ flushing.cores) : c = flushing.core 0 ∨ c = flushing.core 1 := by
  simpa [flushing, machine, State.core] using h

theorem hardWired_flushing : flushing.HardWired := by
  intro c hc
  rcases cores_flushing c hc with rfl | rfl
  · refine ⟨rfl, rfl, ?_⟩
    intro d hd
    cases hd
    decide
  · refine ⟨rfl, rfl, ?_⟩
    intro d hd
    cases hd

theorem shaped_flushing : flushing.Shaped := by
  refine ⟨rfl, ?_⟩
  intro c hc
  rcases cores_flushing c hc with rfl | rfl <;> exact ⟨rfl, rfl⟩

theorem programLegal_halt : ProgramLegal [0x14000000] :=
  ⟨List.cons_ne_nil _ _, fun _ hw => ⟨.halt, by obtain rfl := List.mem_singleton.mp hw; rfl⟩⟩

theorem programLegal_add_halt : ProgramLegal [0x00423000, 0x14000000] := by
  refine ⟨List.cons_ne_nil _ _, ?_⟩
  intro w hw
  rcases List.mem_cons.mp hw with rfl | hw
  · exact ⟨.add 4 2 3, rfl⟩
  · exact programLegal_halt.2 w hw

theorem legal_flushing : flushing.Legal := by
  intro c hc
  rcases cores_flushing c hc with rfl | rfl
  · exact ⟨fun st => by cases st <;> exact trivial, programLegal_add_halt⟩
  · exact ⟨fun st => by cases st <;> first | exact trivial | rfl, programLegal_halt⟩

theorem controlled_flushing : flushing.Controlled := by
  refine ⟨?_, ?_, ?_⟩
  · intro c hc
    rcases cores_flushing c hc with rfl | rfl <;> exact ⟨⟨rfl, rfl, rfl, rfl, rfl, rfl, rfl, rfl, rfl⟩, by decide⟩
  · intro t ht
    cases ht
    exact ⟨by decide, rfl⟩
  · intro k hk hb
    have hk' : k = 0 ∨ k = 1 := by
      have : k < 2 := hk
      omega
    rcases hk' with rfl | rfl <;> cases hb

/-- The only copy in the machine is core 0's Shared copy of address 5. -/
theorem bits_flushing (k : Nat) (a : Word) (st : Msi) (h : flushing.bits k a = some st) : k = 0 ∧ a = 5 ∧ st = .shared := by
  obtain ⟨hne, l, hl, hs, ht⟩ := bits_some _ _ _ _ h
  match k with
  | 0 =>
    have hlt : lineIndex flushing.cfg.indexBits a < 4 := Nat.mod_lt _ (by decide)
    have hi : lineIndex flushing.cfg.indexBits a = 1 := by
      revert hl
      generalize lineIndex flushing.cfg.indexBits a = n at *
      intro hl
      interval_cases n
      · cases hl; exact absurd hs.symm hne
      · rfl
      · cases hl; exact absurd hs.symm hne
      · cases hl; exact absurd hs.symm hne
    rw [hi] at hl
    cases hl
    exact ⟨rfl, address_eq_of_split flushing.cfg.indexBits a 5 (ht.symm.trans (by decide)) (hi.trans (by decide)), hs.symm⟩
  | 1 =>
    have hm := List.mem_of_getElem? hl
    have hinv : l = Line.invalid := by
      simp [flushing, machine, State.core, coreWith, Core.reset, Config.nLines, Config.reference, State.reset, State.boot] at hm
      exact hm
    subst hinv
    exact absurd hs.symm hne
  | k + 2 =>
    have hm := List.mem_of_getElem? hl
    have hinv : l = Line.invalid := by
      simp [flushing, machine, State.core, Core.reset, Config.nLines] at hm
      exact hm
    subst hinv
    exact absurd hs.symm hne

theorem coherent_flushing : flushing.Coherent := by
  refine ⟨?_, ?_, ?_, ?_⟩
  · intro j k a _ h
    cases (bits_flushing j a _ h).2.2
  · intro t ht j _
    cases ht
    exact ⟨fun h => (nomatch (bits_flushing j _ _ h).2.2), fun h => (nomatch h)⟩
  · intro k a h
    obtain ⟨rfl, rfl, -⟩ := bits_flushing k a _ h
    decide
  · exact .inr ⟨fun h => (nomatch h), 2, rfl⟩

theorem test_meets_StepKeepsHardWiredRegisters : flushing.HardWired ∧ ∃ t, step flushing = .next t := ⟨hardWired_flushing, _, rfl⟩
theorem test_meets_StepKeepsShape : flushing.Shaped ∧ ∃ t, step flushing = .next t := ⟨shaped_flushing, _, rfl⟩
theorem test_meets_StepKeepsLegalRecords : flushing.Legal ∧ ∃ t, step flushing = .next t := ⟨legal_flushing, _, rfl⟩
theorem test_meets_LegalProgramsMeetNoRuntimeFatal :
    flushing.Legal ∧ (inTurn .fetch { coreWith 0 0 with pc := 1 }).Legal ∧
    ∃ e, step (inTurn .fetch { coreWith 0 0 with pc := 1 }) = .fault e := by
  refine ⟨legal_flushing, ?_, _, rfl⟩
  intro c hc
  obtain rfl := List.mem_singleton.mp hc
  exact ⟨fun st => by cases st <;> exact trivial, programLegal_halt⟩
theorem test_meets_StepKeepsControlState : flushing.Controlled ∧ ∃ t, step flushing = .next t := ⟨controlled_flushing, _, rfl⟩
theorem test_meets_StepKeepsCoherence : flushing.Shaped ∧ flushing.Coherent ∧ ∃ t, step flushing = .next t :=
  ⟨shaped_flushing, coherent_flushing, _, rfl⟩
theorem test_meets_CoherenceInTheSpecsWords : flushing.Coherent ∧ flushing.bits 0 5 = some .shared := ⟨coherent_flushing, by decide⟩
theorem test_meets_BootMeetsTheInvariants :
    Memory.wf [(5, 42)] = true ∧ (∀ p ∈ [[(0x00423000 : Word), 0x14000000], [0x14000000]], ProgramLegal p) ∧ Config.reference.wf = true := by
  refine ⟨by decide, ?_, by decide⟩
  intro p hp
  simp only [List.mem_cons, List.not_mem_nil, or_false] at hp
  rcases hp with rfl | rfl
  · exact programLegal_add_halt
  · exact programLegal_halt

/-! ## Hypotheses met: the whole machine -/

/-- ProgramsAreReadOnly, CycleCountsTicks. -/
theorem test_meets_every_step : ∃ t, step flushing = .next t := ⟨_, rfl⟩
theorem test_meets_PipelinesAreIsolated :
    (occupied .execute).turn = .stage 0 .execute ∧ (∃ t, step (occupied .execute) = .next t) ∧ 1 ≠ 0 := ⟨rfl, ⟨_, rfl⟩, by decide⟩

/-- A fault of every kind (60_exceptions.md R167 codes 2 to 7). -/
theorem test_meets_FaultsComeFromTheirStage :
    let code := fun s : State => (faultOf (step s)).map Fault.code
    let corrupted := fun st d => inTurn st { coreWith 0 0 with slots := Slots.set .bubbles st { content := .corrupt d } }
    code (corrupted .decode (.registerRange wideStore)) = some 2 ∧ code (inTurn .decode (holding .decode (.sw 1 2 3) (coreWith 0 0))) = some 3 ∧
    code (corrupted .execute .opcode) = some 4 ∧ code (fetching []) = some 5 ∧ code (accessing (.lw 4 2 3) .shared 64) = some 6 ∧
    code (inTurn .execute { coreWith 0 0 with slots := { Slots.bubbles with execute := { content := .instr (.srl 4 2 3), b := 32 } } }) =
      some 7 := by decide

theorem test_meets_RejectedProgramDoesNotStart :
    let bad := machine [coreWith 0 0, { coreWith 0 0 with imem := [0x14000000, 0x15000000] }]
    let good := machine [coreWith 0 0]
    bad.turn = .tickStart ∧ bad.allDrained = false ∧ (∃ c ∈ bad.cores, ∃ w ∈ c.imem, ∀ i, decodeWord w ≠ .ok i) ∧
    (State.reset.turn = .tickStart ∧ State.reset.allDrained = false ∧ ∃ c ∈ State.reset.cores, c.imem = []) ∧
    good.turn = .tickStart ∧ good.allDrained = false ∧ ∀ c ∈ good.cores, ProgramLegal c.imem := by
  refine ⟨rfl, rfl, ?_, ⟨rfl, rfl, _, List.mem_singleton.mpr rfl, rfl⟩, rfl, rfl, ?_⟩
  · refine ⟨_, List.mem_cons_of_mem _ (List.mem_singleton.mpr rfl), 0x15000000, by simp, ?_⟩
    intro i h
    have hd : decodeWord 0x15000000 = .error .unassignedOpcode := rfl
    rw [hd] at h
    cases h
  · intro c hc
    obtain rfl := List.mem_singleton.mp hc
    exact programLegal_halt

/-- The refusal of a result. -/
def refusalOf : Result → Option Refusal
  | .next _ => none
  | .fault _ => none
  | .refused e => some e

/-- R168, R167: an empty program is rejected, and so is an illegal word, with cause code 1. -/
theorem test_load_check :
    refusalOf (step State.reset) = some (.loadFatal 0 0 .emptyProgram) ∧
    refusalOf (step (machine [coreWith 0 0, { coreWith 0 0 with imem := [0x14000000, 0x15000000] }])) =
      some (.loadFatal 1 1 (.illegalWord .unassignedOpcode)) ∧
    (Refusal.loadFatal 0 0 .emptyProgram).code = some 1 := by decide

/-- R9: one core at least, a word of program at least, one word of memory at least, a latency of at least 1. -/
theorem test_parametersOk :
    (machine [coreWith 0 0]).parametersOk = true ∧ (machine []).parametersOk = false ∧ State.reset.parametersOk = false ∧
    { machine [coreWith 0 0] with cfg := { Config.reference with memWords := 0 } }.parametersOk = false ∧
    { machine [coreWith 0 0] with cfg := { Config.reference with memLatency := 0 } }.parametersOk = false := by decide

theorem test_meets_EndedRunStays :
    (machine [{ coreWith 0 0 with drained := true }]).turn = .tickStart ∧
    (machine [{ coreWith 0 0 with drained := true }]).allDrained = true := by decide
theorem test_meets_StepsOfATickAreTheGlobalTick :
    (machine [{ coreWith 0 0 with imem := [0x14000000] }]).turn = .tickStart ∧
    (machine [{ coreWith 0 0 with imem := [0x14000000] }]).allDrained = false ∧
    (machine [{ coreWith 0 0 with imem := [0x14000000] }]).loadProblem = none := by decide

end Sys2Proof.Tests
end

section
/-! PROOFS. The family of 40_alu.md: what the passage of a RegisterOp leaves, once for all of them, and from it the statements about ADD, SUB,
AND, OR, XOR, SLL and SRL. -/

namespace Sys2Proof.Machine

/-! ## What the deferred write leaves of a core -/

/-- Once the older deferred write is applied, recording a write leaves the new one, which for registers 0 and 1 is none (R18, R19, R128). -/
theorem State.core_recordWrite (s : State) (k : Nat) (d : Reg) (v : Word) (h : k < s.nCores) (hd : (s.core k).dw = none) :
    (s.recordWrite k d v).core k = { s.core k with dw := deferredOf d v } := by
  by_cases h0 : d = 0 ∨ d = 1
  · have h0' : ¬ (d ≠ 0 ∧ d ≠ 1) := by tauto
    rw [State.recordWrite, if_neg h0', deferredOf, if_pos h0, ← hd]
  · have h0' : d ≠ 0 ∧ d ≠ 1 := by tauto
    rw [State.recordWrite, if_pos h0', deferredOf, if_neg h0, State.core_modCore_self _ _ _ h]

@[simp] theorem State.core_applyDeferred (s : State) (k : Nat) (h : k < s.nCores) :
    (s.applyDeferred k).core k = (s.core k).applyDeferred := by
  simp [State.applyDeferred, h]

@[simp] theorem State.nCores_applyDeferred (s : State) (k : Nat) : (s.applyDeferred k).nCores = s.nCores := by
  simp [State.applyDeferred]

/-- Applying the deferred write and replacing the slots do not touch each other. -/
theorem Core.applyDeferred_withSlots (c : Core) (x : Slots) :
    { c with slots := x }.applyDeferred = { c.applyDeferred with slots := x } := by
  cases hd : c.dw <;> simp [Core.applyDeferred, hd]

/-! ## What stays outside core k -/

theorem SameOutside.trans {k : Nat} {s t u : State} (h : SameOutside k s t) (h' : SameOutside k t u) : SameOutside k s u := by
  obtain ⟨⟨hcfg, htxn, hmem, hread, hop, hstaged, hcycle, hevents, hcores⟩, hother⟩ := h
  obtain ⟨⟨hcfg', htxn', hmem', hread', hop', hstaged', hcycle', hevents', hcores'⟩, hother'⟩ := h'
  exact ⟨⟨hcfg'.trans hcfg, htxn'.trans htxn, hmem'.trans hmem, fun a => (hread' a).trans (hread a), hop'.trans hop,
    hstaged'.trans hstaged, hcycle'.trans hcycle, hevents'.trans hevents, hcores'.trans hcores⟩,
    fun j hj => (hother' j hj).trans (hother j hj)⟩

theorem sameOutside_give (k : Nat) (s : State) (u : Turn) : SameOutside k s (s.give u) := by
  simp [SameOutside, SameShared]

theorem sameOutside_modCore (k : Nat) (s : State) (f : Core → Core) : SameOutside k s (s.modCore k f) := by
  simp +contextual [SameOutside, SameShared]

theorem sameOutside_pass (k : Nat) (s : State) (st : Stage) (v : Slot) : SameOutside k s (s.pass k st v) :=
  sameOutside_modCore k s _

theorem sameOutside_applyDeferred (k : Nat) (s : State) : SameOutside k s (s.applyDeferred k) :=
  sameOutside_modCore k s _

theorem sameOutside_recordWrite (k : Nat) (s : State) (d : Reg) (v : Word) : SameOutside k s (s.recordWrite k d v) := by
  unfold State.recordWrite
  split
  · exact sameOutside_modCore k s _
  · simp [SameOutside, SameShared]

/-! ## A stage hands its record on -/

/-- Stage `st` of core k, given the turn, hands the record `v` to the next stage (R114). -/
def State.handOn (s : State) (k : Nat) (st : Stage) (v : Slot) : State := (s.give (.stage k st)).pass k st v

@[simp] theorem State.nCores_handOn (s : State) (k : Nat) (st : Stage) (v : Slot) : (s.handOn k st v).nCores = s.nCores := by
  simp [State.handOn]

@[simp] theorem State.slot_handOn_next (s : State) (k : Nat) (st : Stage) (v : Slot) (h : k < s.nCores) :
    (s.handOn k st v).slot k st.next = v :=
  State.slot_setSlot_self (s.give _) k st.next v h

/-- A core that differs from `c` in its slots only still does after a hand-over. -/
theorem State.core_handOn_of_slots {s : State} {k : Nat} {c : Core} {x : Slots} (st : Stage) (v : Slot) (h : k < s.nCores)
    (hc : s.core k = { c with slots := x }) : (s.handOn k st v).core k = { c with slots := x.set st.next v } := by
  rw [State.handOn, State.core_pass (s.give (.stage k st)) k st v h, State.core_give, hc]

theorem sameOutside_handOn (k : Nat) (s : State) (st : Stage) (v : Slot) : SameOutside k s (s.handOn k st v) :=
  (sameOutside_give k s _).trans (sameOutside_pass k _ st v)

theorem readOperands_give (s : State) (u : Turn) (k : Nat) (rs : Reg) (b : OperandB) :
    readOperands (s.give u) k rs b = readOperands s k rs b := by
  cases b <;> rfl

theorem decodeOperands_inTurn (s : State) (k : Nat) (rs : Reg) (b : OperandB) {rd : Reg} (hrd : rd ≠ 1) :
    decodeOperands rd rs b k (s.give (.stage k .decode)) = .next (s.handOn k .decode (readOperands s k rs b)) :=
  (decodeOperands_next ..).mpr ⟨hrd, by rw [readOperands_give]; rfl⟩

theorem passOn_inTurn {s : State} {k : Nat} {st : Stage} {v : Slot} (h : s.slot k st = v) :
    passOn st k (s.give (.stage k st)) = .next (s.handOn k st v) := by
  rw [passOn, State.slot_give, h, State.handOn]

/-! ## The passage of an instruction -/

/-- An instruction passes when its own actions of Decode, Execute, Memory and Write-back answer next states, each from where the one before left
the machine. -/
theorem passage_of_stages {i : Instr} {f d e m w : StageAction} (hi : ∀ s, exec i s = inStage s f d e m w)
    {k : Nat} {s t1 t2 t3 t : State}
    (hd : d k (s.give (.stage k .decode)) = .next t1) (he : e k (t1.give (.stage k .execute)) = .next t2)
    (hm : m k (t2.give (.stage k .memory)) = .next t3)
    (hw : w k ((t3.applyDeferred k).give (.stage k .writeBack)) = .next t) : Passage i k s t :=
  ⟨t1, t2, t3, by rw [hi, inStage_decode _ k _ _ _ _ _ rfl, hd], by rw [hi, inStage_execute _ k _ _ _ _ _ rfl, he],
    by rw [hi, inStage_memory _ k _ _ _ _ _ rfl, hm], by rw [hi, inStage_writeBack _ k _ _ _ _ _ rfl, hw]⟩

/-! ## The RegisterOps (R77) -/

/-- Instruction `i` acts in its stages as R77 has a RegisterOp act, with operand B given by `b` and `e` as its Execute. -/
def ActsAsRegisterOp (i : Instr) (rd rs : Reg) (b : OperandB) (e : StageAction) : Prop :=
  ∀ s, exec i s =
    inStage s (fetchInstr i 1) (decodeOperands rd rs b) e (passOn .memory) (writeBackReg rd Slot.result)

/-- The machine before Write-back records a write: core k's record has passed as `v` from Decode and as `v'` from Execute and Memory. -/
def State.atWriteBack (s : State) (k : Nat) (v v' : Slot) : State :=
  ((((s.handOn k .decode v).handOn k .execute v').handOn k .memory v').applyDeferred k).give (.stage k .writeBack)

@[simp] theorem State.nCores_atWriteBack (s : State) (k : Nat) (v v' : Slot) : (s.atWriteBack k v v').nCores = s.nCores := by
  simp [State.atWriteBack]

theorem sameOutside_atWriteBack (k : Nat) (s : State) (v v' : Slot) : SameOutside k s (s.atWriteBack k v v') :=
  (sameOutside_handOn k s .decode v).trans <| (sameOutside_handOn k _ .execute v').trans <|
    (sameOutside_handOn k _ .memory v').trans <| (sameOutside_applyDeferred k _).trans <| sameOutside_give k _ _

/-- Core k has the older deferred write applied and the record in the slots it was handed to, and is otherwise as it was. -/
theorem State.core_atWriteBack (s : State) (k : Nat) (v v' : Slot) (hk : k < s.nCores) :
    (s.atWriteBack k v v').core k =
      { (s.core k).applyDeferred with
        slots := { (s.core k).slots with execute := v, memory := v', writeBack := v' } } := by
  have hdecode := State.core_handOn_of_slots (s := s) (c := s.core k) .decode v hk rfl
  have hexecute := State.core_handOn_of_slots .execute v' (by simpa using hk) hdecode
  have hmemory := State.core_handOn_of_slots .memory v' (by simpa using hk) hexecute
  rw [State.atWriteBack, State.core_give, State.core_applyDeferred _ _ (by simpa using hk), hmemory,
    Core.applyDeferred_withSlots]
  rfl

/-- An instruction whose passage ends in recording `r` for `d` computes `r`. -/
theorem computes_of_recordWrite {i : Instr} {k : Nat} {s : State} {d : Reg} {r : Word} (v v' : Slot) (hk : k < s.nCores)
    (hp : Passage i k s ((s.atWriteBack k v v').recordWrite k d r)) : Computes i k s d r := by
  have hcore := s.core_atWriteBack k v v' hk
  have hdw : ((s.atWriteBack k v v').core k).dw = none := by
    rw [hcore]
    exact Core.dw_applyDeferred _
  have hafter := State.core_recordWrite (s.atWriteBack k v v') k d r (by simpa using hk) hdw
  refine ⟨_, hp, (sameOutside_atWriteBack k s v v').trans (sameOutside_recordWrite k _ d r), ?_, ?_⟩
  · rw [hafter, hcore]
  · simp [SameFront, State.slot, Slots.get, hafter, hcore]

/-- A RegisterOp whose Execute puts `v'` in the place of the record with its operands leaves the deferred write of `v'.result`. -/
theorem ActsAsRegisterOp.computes {i : Instr} {rd rs : Reg} {b : OperandB} {e : StageAction} (hi : ActsAsRegisterOp i rd rs b e)
    {s : State} {k : Nat} {v' : Slot} (hk : k < s.nCores) (hrd : rd ≠ 1)
    (he : ∀ u : State, u.slot k .execute = readOperands s k rs b → e k u = .next (u.pass k .execute v')) :
    Computes i k s rd v'.result := by
  have hslot : (s.atWriteBack k (readOperands s k rs b) v').slot k .writeBack = v' := by
    rw [State.slot, State.core_atWriteBack s k _ v' hk]
    rfl
  have hwrite : writeBackReg rd Slot.result k (s.atWriteBack k (readOperands s k rs b) v') =
      .next ((s.atWriteBack k (readOperands s k rs b) v').recordWrite k rd v'.result) := by
    rw [writeBackReg, hslot]
  exact computes_of_recordWrite (readOperands s k rs b) v' hk <|
    passage_of_stages hi (decodeOperands_inTurn s k rs b hrd) (he _ (State.slot_handOn_next s k .decode _ hk))
      (passOn_inTurn (State.slot_handOn_next _ k .execute v' (by simpa using hk))) hwrite

/-- The value of a RegisterOp that cannot raise (R77): its function of the two operands. -/
theorem ActsAsRegisterOp.computes_alu {i : Instr} {rd rs : Reg} {b : OperandB} {f : Word → Word → Word}
    (hi : ActsAsRegisterOp i rd rs b (executeAlu f)) {s : State} {k : Nat} (hk : k < s.nCores) (hrd : rd ≠ 1) :
    Computes i k s rd (f (s.reg k rs) (b.value s k)) :=
  hi.computes hk hrd fun u hu => by rw [executeAlu, hu]

/-- The value of a shift by an amount in 0 .. 31 (R85). -/
theorem ActsAsRegisterOp.computes_shift {i : Instr} {rd rs : Reg} {b : OperandB} {f : Word → Nat → Word}
    (hi : ActsAsRegisterOp i rd rs b (executeShift f)) {s : State} {k n : Nat} (hk : k < s.nCores) (hrd : rd ≠ 1)
    (hn : n ≤ 31) (hb : (b.value s k).toInt = n) : Computes i k s rd (f (s.reg k rs) n) := by
  refine hi.computes (v' := { readOperands s k rs b with result := f (s.reg k rs) n }) hk hrd fun u hu =>
    (executeShift_next ..).mpr ?_
  have hamount : (readOperands s k rs b).b.toInt = n := hb
  rw [hu, hamount]
  exact ⟨⟨by omega, by omega⟩, rfl⟩

/-! ## The instructions of the family, in format R and in format RI -/

section
variable (rd rs rt : Reg) (imm : Imm)

theorem add_acts : ActsAsRegisterOp (.add rd rs rt) rd rs (.reg rt) (executeAlu addFn) := fun _ => rfl
theorem addImm_acts : ActsAsRegisterOp (.addImm rd rs imm) rd rs (.imm imm) (executeAlu addFn) := fun _ => rfl
theorem sub_acts : ActsAsRegisterOp (.sub rd rs rt) rd rs (.reg rt) (executeAlu subFn) := fun _ => rfl
theorem subImm_acts : ActsAsRegisterOp (.subImm rd rs imm) rd rs (.imm imm) (executeAlu subFn) := fun _ => rfl
theorem and_acts : ActsAsRegisterOp (.and rd rs rt) rd rs (.reg rt) (executeAlu andFn) := fun _ => rfl
theorem andImm_acts : ActsAsRegisterOp (.andImm rd rs imm) rd rs (.imm imm) (executeAlu andFn) := fun _ => rfl
theorem or_acts : ActsAsRegisterOp (.or rd rs rt) rd rs (.reg rt) (executeAlu orFn) := fun _ => rfl
theorem orImm_acts : ActsAsRegisterOp (.orImm rd rs imm) rd rs (.imm imm) (executeAlu orFn) := fun _ => rfl
theorem xor_acts : ActsAsRegisterOp (.xor rd rs rt) rd rs (.reg rt) (executeAlu xorFn) := fun _ => rfl
theorem xorImm_acts : ActsAsRegisterOp (.xorImm rd rs imm) rd rs (.imm imm) (executeAlu xorFn) := fun _ => rfl
theorem sll_acts : ActsAsRegisterOp (.sll rd rs rt) rd rs (.reg rt) (executeShift sllFn) := fun _ => rfl
theorem sllImm_acts : ActsAsRegisterOp (.sllImm rd rs imm) rd rs (.imm imm) (executeShift sllFn) := fun _ => rfl
theorem srl_acts : ActsAsRegisterOp (.srl rd rs rt) rd rs (.reg rt) (executeShift srlFn) := fun _ => rfl
theorem srlImm_acts : ActsAsRegisterOp (.srlImm rd rs imm) rd rs (.imm imm) (executeShift srlFn) := fun _ => rfl

end

/-! ## Their functions, as numbers and as bits -/

/-- The immediate operand keeps its signed value (R11, R67). -/
theorem toInt_sext12 (imm : Imm) : (sext12 imm).toInt = imm.toInt :=
  BitVec.toInt_signExtend_of_le (by decide)

theorem addFn_eq_ofNat (a b : Word) : addFn a b = BitVec.ofNat 32 (a.toNat + b.toNat) := by
  simp [addFn, BitVec.ofNat_add]

theorem addFn_eq_ofInt (a b : Word) : addFn a b = BitVec.ofInt 32 (a.toInt + b.toInt) := by
  simp [addFn, BitVec.ofInt_add]

theorem subFn_eq_ofInt (a b : Word) : subFn a b = BitVec.ofInt 32 (a.toInt - b.toInt) := by
  simp [subFn, Int.sub_eq_add_neg, BitVec.ofInt_add, BitVec.ofInt_neg, BitVec.sub_eq_add_neg]

theorem sllFn_eq_ofNat (a : Word) (n : Nat) : sllFn a n = BitVec.ofNat 32 (a.toNat * 2 ^ n) := by
  apply BitVec.eq_of_toNat_eq
  simp [sllFn, Nat.shiftLeft_eq]

theorem srlFn_eq_ofNat (a : Word) (n : Nat) : srlFn a n = BitVec.ofNat 32 (a.toNat / 2 ^ n) := by
  apply BitVec.eq_of_toNat_eq
  have hlt : a.toNat / 2 ^ n < 2 ^ 32 := Nat.lt_of_le_of_lt (Nat.div_le_self ..) a.isLt
  rw [srlFn, BitVec.toNat_ushiftRight, Nat.shiftRight_eq_div_pow, BitVec.toNat_ofNat, Nat.mod_eq_of_lt hlt]

/-! ## The statements -/

/-- Settles O11: `computes_alu` with the two functions read as numbers. -/
theorem addSubResults : Obligations.AddSubResults := by
  intro s k rd rs hk hrd
  refine ⟨fun rt => ⟨?add, ?sub, by simp [encode], by simp [encode]⟩,
    fun imm => ⟨?addImm, ?subImm, by simp [encode], by simp [encode]⟩⟩
  case add =>
    rw [← addFn_eq_ofNat]
    exact (add_acts rd rs rt).computes_alu hk hrd
  case sub =>
    rw [← subFn_eq_ofInt]
    exact (sub_acts rd rs rt).computes_alu hk hrd
  case addImm =>
    rw [← toInt_sext12, ← addFn_eq_ofInt]
    exact (addImm_acts rd rs imm).computes_alu hk hrd
  case subImm =>
    rw [← toInt_sext12, ← subFn_eq_ofInt]
    exact (subImm_acts rd rs imm).computes_alu hk hrd

/-- Settles O12: `computes_alu` with the bits of the three functions. -/
theorem logicResults : Obligations.LogicResults := by
  intro s k rd rs hk hrd
  refine ⟨fun rt => ⟨?and, ?or, ?xor, by simp [encode], by simp [encode], by simp [encode]⟩,
    fun imm => ⟨?andImm, ?orImm, ?xorImm, by simp [encode], by simp [encode], by simp [encode]⟩⟩
  case and => exact ⟨_, (and_acts rd rs rt).computes_alu hk hrd, fun _ => BitVec.getLsbD_and⟩
  case or => exact ⟨_, (or_acts rd rs rt).computes_alu hk hrd, fun _ => BitVec.getLsbD_or⟩
  case xor => exact ⟨_, (xor_acts rd rs rt).computes_alu hk hrd, fun _ => BitVec.getLsbD_xor⟩
  case andImm => exact ⟨_, (andImm_acts rd rs imm).computes_alu hk hrd, fun _ => BitVec.getLsbD_and⟩
  case orImm => exact ⟨_, (orImm_acts rd rs imm).computes_alu hk hrd, fun _ => BitVec.getLsbD_or⟩
  case xorImm => exact ⟨_, (xorImm_acts rd rs imm).computes_alu hk hrd, fun _ => BitVec.getLsbD_xor⟩

/-- Settles O14: `computes_shift` with the two functions read as numbers; an immediate amount is read after its sign extension. -/
theorem logicalShiftResults : Obligations.LogicalShiftResults := by
  intro s k n rd rs hk hrd hn
  rw [← sllFn_eq_ofNat, ← srlFn_eq_ofNat]
  refine ⟨fun rt hrt => ⟨(sll_acts rd rs rt).computes_shift hk hrd hn hrt, (srl_acts rd rs rt).computes_shift hk hrd hn hrt,
    by simp [encode], by simp [encode]⟩, fun imm himm => ?_⟩
  have hamount : ((OperandB.imm imm).value s k).toInt = n := (toInt_sext12 imm).trans himm
  exact ⟨(sllImm_acts rd rs imm).computes_shift hk hrd hn hamount, (srlImm_acts rd rs imm).computes_shift hk hrd hn hamount,
    by simp [encode], by simp [encode]⟩

end Sys2Proof.Machine
end

section
/-! PROOFS. The family of 51_cache.md: which addresses a cache has a copy of, what `setBits` leaves of the line an address selects, and from
them the statements about the read and about the bus's accessors. -/

namespace Sys2Proof.Machine

/-! ## The match (R133) -/

/-- The match is that of R133: the selected line is not Invalid and is of the address's tag. -/
theorem Cache.hasCopy_iff (c : Cache) (ib : Nat) (a : Word) :
    c.hasCopy ib a = true ↔ (c.line ib a).state ≠ .invalid ∧ (c.line ib a).tag = lineTag ib a := by
  simp [Cache.hasCopy]

/-- An index without a line selects the Invalid line, so a match is at a line that the cache has. -/
theorem Cache.lineIndex_lt_of_hasCopy {c : Cache} {ib : Nat} {a : Word} (h : c.hasCopy ib a = true) :
    lineIndex ib a < c.lines.length := by
  by_contra hlen
  have hline : c.line ib a = .invalid := List.getD_eq_default _ _ (Nat.le_of_not_lt hlen)
  exact ((c.hasCopy_iff ib a).mp h).1 (by rw [hline]; rfl)

/-- What `getBits` answers (R137), in the words of R133. -/
theorem Cache.getBits_eq (c : Cache) (ib : Nat) (a : Word) :
    c.getBits ib a =
      if (c.line ib a).state ≠ .invalid ∧ (c.line ib a).tag = lineTag ib a then some (c.line ib a).state else none := by
  simp only [Cache.getBits, Cache.hasCopy_iff]

theorem Cache.getBits_eq_none_iff (c : Cache) (ib : Nat) (a : Word) : c.getBits ib a = none ↔ c.hasCopy ib a = false := by
  simp [Cache.getBits]

/-- The answer depends on the selected line alone. -/
theorem Cache.getBits_congr {c c' : Cache} {ib : Nat} {a : Word} (h : c'.line ib a = c.line ib a) :
    c'.getBits ib a = c.getBits ib a := by
  rw [Cache.getBits_eq, Cache.getBits_eq, h]

/-- A line of another tag is no copy, whatever its state. -/
theorem Cache.getBits_of_tag_ne {c : Cache} {ib : Nat} {a : Word} (h : (c.line ib a).tag ≠ lineTag ib a) :
    c.getBits ib a = none := by
  rw [Cache.getBits_eq, if_neg fun hmatch => h hmatch.2]

/-! ## `setBits` (R138) -/

theorem Cache.setBits_of_hasCopy {c : Cache} {ib : Nat} {a : Word} (st : Msi) (h : c.hasCopy ib a = true) :
    c.setBits ib a st = c.setLine ib a { c.line ib a with state := st } :=
  if_pos h

theorem Cache.setBits_of_no_copy {c : Cache} {ib : Nat} {a : Word} (st : Msi) (h : c.hasCopy ib a = false) :
    c.setBits ib a st = c :=
  if_neg (by simp [h])

/-- The line an address selects after `setBits` at a match: the matching line in its new state, every other as it was. -/
theorem Cache.line_setBits {c : Cache} {ib : Nat} {a : Word} (b : Word) (st : Msi) (h : c.hasCopy ib a = true) :
    (c.setBits ib a st).line ib b =
      if lineIndex ib b = lineIndex ib a then { c.line ib a with state := st } else c.line ib b := by
  rw [Cache.setBits_of_hasCopy st h, Cache.line_setLine _ _ _ _ _ (Cache.lineIndex_lt_of_hasCopy h)]

/-- The address itself is answered the new state, which is no copy when that is Invalid. -/
theorem Cache.getBits_setBits_self {c : Cache} {ib : Nat} {a : Word} (st : Msi) (h : c.hasCopy ib a = true) :
    (c.setBits ib a st).getBits ib a = if st = .invalid then none else some st := by
  have htag : (c.line ib a).tag = lineTag ib a := ((c.hasCopy_iff ib a).mp h).2
  simp [Cache.getBits_eq, Cache.line_setBits a st h, htag]

/-- No other address's answer changes: one of another index selects another line, and one of the same index has another tag, so it had no copy
and has none. -/
theorem Cache.getBits_setBits_of_ne (c : Cache) (ib : Nat) {a b : Word} (st : Msi) (hne : b ≠ a) :
    (c.setBits ib a st).getBits ib b = c.getBits ib b := by
  cases h : c.hasCopy ib a with
  | false => rw [Cache.setBits_of_no_copy st h]
  | true =>
    have hline := Cache.line_setBits b st h
    by_cases hidx : lineIndex ib b = lineIndex ib a
    · have hsame : c.line ib b = c.line ib a := by rw [Cache.line, Cache.line, hidx]
      have htag : (c.line ib a).tag ≠ lineTag ib b := fun ht =>
        hne (address_eq_of_split ib b a (ht.symm.trans ((c.hasCopy_iff ib a).mp h).2) hidx)
      rw [if_pos hidx] at hline
      rw [Cache.getBits_of_tag_ne (by rwa [hline]), Cache.getBits_of_tag_ne (by rwa [hsame])]
    · rw [if_neg hidx] at hline
      exact Cache.getBits_congr hline

/-- Every line keeps its tag and its data: the one that is set is set to itself in another state. -/
theorem Cache.map_tag_data_setBits (c : Cache) (ib : Nat) (a : Word) (st : Msi) :
    (c.setBits ib a st).lines.map (fun l => (l.tag, l.data)) = c.lines.map (fun l => (l.tag, l.data)) := by
  cases h : c.hasCopy ib a with
  | false => rw [Cache.setBits_of_no_copy st h]
  | true =>
    have hlt := Cache.lineIndex_lt_of_hasCopy h
    have hline : c.line ib a = c.lines[lineIndex ib a] := List.getD_eq_getElem _ _ hlt
    have hself := List.set_getElem_self (as := c.lines.map fun l => (l.tag, l.data)) (i := lineIndex ib a) (by simpa using hlt)
    simpa [Cache.setBits_of_hasCopy st h, Cache.setLine, hline, List.map_set] using hself

/-- `setBits` touches the lines only, so no counter. -/
theorem Cache.setBits_frame (c : Cache) (ib : Nat) (a : Word) (st : Msi) :
    c.setBits ib a st = { c with lines := (c.setBits ib a st).lines } := by
  unfold Cache.setBits
  split <;> rfl

/-! ## The statements -/

/-- Settles O34: `read` branches on the match. -/
theorem cacheReadHitsOnMatch : Obligations.CacheReadHitsOnMatch := by
  intro c ib a
  rw [← Cache.hasCopy_iff, Cache.read_eq]
  exact ⟨fun hmatch => if_pos hmatch, fun hno => if_neg hno⟩

/-- Settles O35: at a match from the line that `setBits` leaves, and with no match from its doing nothing. -/
theorem setBitsChangesOneState : Obligations.SetBitsChangesOneState := by
  intro c ib a b st hst
  refine ⟨c.getBits_eq ib a, rfl, fun hnone => Cache.setBits_of_no_copy st ((c.getBits_eq_none_iff ib a).mp hnone), fun hcopy => ?_,
    fun hne => c.getBits_setBits_of_ne ib st hne, c.map_tag_data_setBits ib a st, c.setBits_frame ib a st⟩
  have hmatch : c.hasCopy ib a = true := by
    rwa [Ne, Cache.getBits_eq_none_iff, Bool.not_eq_false] at hcopy
  rw [Cache.getBits_setBits_self st hmatch]
  rcases hst with rfl | rfl <;> rfl

end Sys2Proof.Machine
end

section
/-! PROOFS. The family of 52_bus.md: what each operation does to the watch tables, once for all of them; that a step writes them in two ways only,
the watch of an LL and the check of an SC (R155); and from it the statement about `setWatch`. -/

namespace Sys2Proof.Machine

/-! ## The watch tables -/

/-- The watch tables of the machine, one a core: `bus.watch` (R34). -/
def State.watches (s : State) : List (List (Nat × Watch)) := s.cores.map Core.watch

/-- Core j's table; past the last core there is none, and every address is NotWatched. -/
theorem State.watch_core (s : State) (j : Nat) : (s.core j).watch = s.watches.getD j [] := by
  simp only [State.core, State.watches, List.getD_eq_getElem?_getD, List.getElem?_map]
  cases s.cores[j]? <;> rfl

/-- The tables determine every entry. -/
theorem State.watchOf_congr {s t : State} (h : t.watches = s.watches) (j : Nat) (a : Word) : t.watchOf j a = s.watchOf j a := by
  rw [State.watchOf, State.watch_core, h, ← State.watch_core, State.watchOf]

/-- In a machine of the right shape core j's table has the canonical form, for every j. -/
theorem State.Shaped.wf_watch {s : State} (hs : s.Shaped) (j : Nat) : Sparse.wf Watch.notWatched (s.core j).watch = true := by
  by_cases hj : j < s.nCores
  · exact (hs.2 _ ((s.mem_cores _).mpr ⟨j, hj, rfl⟩)).1
  · rw [State.core_of_le s j (Nat.le_of_not_lt hj)]
    rfl

/-! ## What leaves the tables as they are -/

/-- A change to core k that keeps its table keeps every table. -/
@[simp] theorem State.watches_modCore (s : State) (k : Nat) (f : Core → Core) (hf : ∀ c, (f c).watch = c.watch) :
    (s.modCore k f).watches = s.watches := by
  by_cases hk : k < s.nCores
  · have hlt : k < s.cores.length := hk
    have hself : (s.cores.map Core.watch)[k]'(by simpa using hlt) = (s.core k).watch := by
      simp [State.core, List.getD_eq_getElem?_getD, hlt]
    rw [State.watches, State.modCore, State.setCore, List.map_set, hf, ← hself, List.set_getElem_self, State.watches]
  · rw [State.modCore_of_le s k f (Nat.le_of_not_lt hk)]

@[simp] theorem State.watches_give (s : State) (u : Turn) : (s.give u).watches = s.watches := rfl

@[simp] theorem State.watches_pass (s : State) (k : Nat) (st : Stage) (v : Slot) : (s.pass k st v).watches = s.watches := by
  simp [State.pass, State.setSlot]

@[simp] theorem State.watches_redirect (s : State) (k : Nat) (a : Word) : (s.redirect k a).watches = s.watches := by
  simp [State.redirect]

@[simp] theorem State.watches_applyDeferred (s : State) (k : Nat) : (s.applyDeferred k).watches = s.watches := by
  simp [State.applyDeferred]

@[simp] theorem State.watches_recordWrite (s : State) (k : Nat) (d : Reg) (v : Word) : (s.recordWrite k d v).watches = s.watches := by
  unfold State.recordWrite
  split <;> simp

@[simp] theorem State.watches_modCache (s : State) (k : Nat) (f : Cache → Cache) : (s.modCache k f).watches = s.watches := by
  simp [State.modCache]

@[simp] theorem State.watches_beginMemOp (s : State) (kind : MemOpKind) (a : Word) : (s.beginMemOp kind a).2.watches = s.watches := by
  rw [State.beginMemOp_frame]
  rfl

@[simp] theorem State.watches_memTick (s : State) : s.memTick.2.watches = s.watches := by
  unfold State.memTick
  split
  · rfl
  · split
    · rfl
    · split <;> rfl

/-! ## The bus leaves them too (R155) -/

@[simp] theorem State.watches_busEvent (s : State) (kind : BusEventKind) (x : Txn) : (s.busEvent kind x).watches = s.watches := rfl

@[simp] theorem State.watches_fetchFromMemory (s : State) (k : Nat) (a : Word) : (s.fetchFromMemory k a).watches = s.watches := by
  simp [State.fetchFromMemory, State.beginRead]

@[simp] theorem State.watches_flushHolder (s : State) (j : Nat) (a d : Word) : (s.flushHolder j a d).watches = s.watches := by
  simp [State.flushHolder, State.beginWrite]

@[simp] theorem State.watches_invalidateOthers (s : State) (k : Nat) (a : Word) : (s.invalidateOthers k a).watches = s.watches := by
  refine List.ext_getElem (by simp [State.watches, State.invalidateOthers]) fun j _ _ => ?_
  simp only [State.watches, State.invalidateOthers, List.getElem_map, List.getElem_mapIdx]
  split <;> rfl

@[simp] theorem State.watches_snoop (s : State) (k : Nat) (q : Request) : (s.snoop k q).2.watches = s.watches := by
  unfold State.snoop
  split
  · unfold State.grantBusRd
    split <;> simp
  · unfold State.grantBusRdX
    split <;> simp

@[simp] theorem State.watches_grant (s : State) (k : Nat) : (s.grant k).watches = s.watches := by
  unfold State.grant
  split
  · rfl
  · rw [State.watches_busEvent]
    exact State.watches_snoop s k _

@[simp] theorem State.watches_busRequest (s : State) (k : Nat) (cmd : BusCmd) (a : Word) :
    (s.busRequest k cmd a).watches = s.watches := by
  simp only [State.busRequest]
  split <;> simp

@[simp] theorem State.watches_miss (s : State) (k : Nat) (cmd : BusCmd) (a : Word) : (s.miss k cmd a).watches = s.watches := by
  rw [State.miss, State.watches_busRequest, State.watches_modCore _ _ _ Core.watch_freeze]

@[simp] theorem State.watches_complete (s : State) (x : Txn) (d : Word) : (s.complete x d).watches = s.watches :=
  State.watches_modCore s x.owner (fun c => c.serve s.cfg.indexBits x d) fun _ => rfl

@[simp] theorem State.watches_busTick (s : State) (r : MemResult) : (s.busTick r).watches = s.watches := by
  rcases s.busTick_cases r with ⟨x, d, -, h, -⟩ | ⟨x, -, h, -⟩ | ⟨j, -, -, h⟩ | ⟨-, -, h⟩ <;> rw [h]
  · exact s.watches_complete x d
  · exact s.watches_grant j

/-! ## The actions of the instructions but two -/

/-- Where the action answers a next state, every watch table is as it was. -/
def KeepsWatches (f : StageAction) : Prop := ∀ ⦃k s t⦄, f k s = .next t → t.watches = s.watches

theorem keepsWatches_fetchInstr (i : Instr) (n : Word) : KeepsWatches (fetchInstr i n) := by
  rintro k s t ⟨⟩
  simp

theorem keepsWatches_decodeOperands (rd rs : Reg) (b : OperandB) : KeepsWatches (decodeOperands rd rs b) := by
  intro k s t h
  obtain ⟨-, rfl⟩ := (decodeOperands_next ..).mp h
  simp

theorem keepsWatches_decodeStore (rd rs rt : Reg) : KeepsWatches (decodeStore rd rs rt) := by
  intro k s t h
  obtain ⟨-, rfl⟩ := (decodeStore_next ..).mp h
  simp

theorem keepsWatches_decodeBranch (c : Cond) (rs rt : Reg) (imm : Imm) : KeepsWatches (decodeBranch c rs rt imm) := by
  intro k s t h
  obtain rfl := (decodeBranch_next ..).mp h
  rw [State.watches_pass]
  split <;> simp

theorem keepsWatches_decodeJal (imm : Imm) : KeepsWatches (decodeJal imm) := by
  rintro k s t ⟨⟩
  simp

theorem keepsWatches_passOn (st : Stage) : KeepsWatches (passOn st) := by
  rintro k s t ⟨⟩
  simp

theorem keepsWatches_executeAlu (f : Word → Word → Word) : KeepsWatches (executeAlu f) := by
  rintro k s t ⟨⟩
  simp

theorem keepsWatches_executeShift (f : Word → Nat → Word) : KeepsWatches (executeShift f) := by
  intro k s t h
  obtain ⟨-, rfl⟩ := (executeShift_next ..).mp h
  simp

theorem keepsWatches_executeAddress : KeepsWatches executeAddress := by
  rintro k s t ⟨⟩
  simp

/-- A load that hits hands the word on, one that misses freezes its core and asks the bus for the line. -/
theorem keepsWatches_memoryLoad : KeepsWatches memoryLoad := by
  intro k s t h
  obtain ⟨-, h⟩ := (checkingAddress_next ..).mp h
  dsimp only at h
  split at h <;> cases h <;> simp

/-- So does a store. -/
theorem keepsWatches_memoryStore : KeepsWatches memoryStore := by
  intro k s t h
  obtain ⟨-, h⟩ := (checkingAddress_next ..).mp h
  dsimp only at h
  split at h <;> cases h <;> simp

theorem keepsWatches_memoryStoreConditional : KeepsWatches memoryStoreConditional := by
  intro k s t h
  unfold memoryStoreConditional at h
  split at h
  · exact keepsWatches_memoryStore h
  · exact keepsWatches_passOn .memory h

theorem keepsWatches_writeBackReg (d : Reg) (value : Slot → Word) : KeepsWatches (writeBackReg d value) := by
  rintro k s t ⟨⟩
  simp

theorem keepsWatches_writeBackNothing : KeepsWatches writeBackNothing := by
  rintro k s t ⟨⟩
  rfl

theorem keepsWatches_writeBackHalt : KeepsWatches writeBackHalt := by
  rintro k s t ⟨⟩
  simp

/-! ## The two that write: LL and SC in Execute -/

/-- The tables after the Execute of `i` on core k, for the two instructions that write them: the watch of an LL (R103), the check of an SC (R104),
on the instruction's effective address. -/
def WritesWatches (i : Instr) (k : Nat) (s t : State) : Prop :=
  (∃ rd rs rt, i = .ll rd rs rt ∧ t.watches = (s.setWatch k (effectiveAddress (s.slot k .execute))).watches) ∨
  (∃ rd rs rt, i = .sc rd rs rt ∧ t.watches = (s.consumeWatches k (effectiveAddress (s.slot k .execute))).watches)

theorem executeLoadLinked_watches {k : Nat} {s t : State} (h : executeLoadLinked k s = .next t) :
    t.watches = (s.setWatch k (effectiveAddress (s.slot k .execute))).watches := by
  cases h
  simp

theorem executeStoreConditional_watches {k : Nat} {s t : State} (h : executeStoreConditional k s = .next t) :
    t.watches = (s.consumeWatches k (effectiveAddress (s.slot k .execute))).watches := by
  cases h
  simp [State.checkAndConsume]

/-- An instruction whose other four actions keep the tables writes them in Execute or not at all. -/
theorem inStage_watches {f d e m w : StageAction} (hf : KeepsWatches f) (hd : KeepsWatches d) (hm : KeepsWatches m)
    (hw : KeepsWatches w) {s t : State} (h : inStage s f d e m w = .next t) :
    t.watches = s.watches ∨ ∃ k, s.turn = .stage k .execute ∧ e k s = .next t := by
  obtain ⟨k, ⟨-, h⟩ | ⟨-, h⟩ | ⟨ht, h⟩ | ⟨-, h⟩ | ⟨-, h⟩⟩ := inStage_cases _ _ _ _ _ _ _ h
  · exact .inl (hf h)
  · exact .inl (hd h)
  · exact .inr ⟨k, ht, h⟩
  · exact .inl (hm h)
  · exact .inl (hw h)

/-- An instruction whose five actions keep the tables keeps them. -/
theorem inStage_keeps_watches {f d e m w : StageAction} (hf : KeepsWatches f) (hd : KeepsWatches d) (he : KeepsWatches e)
    (hm : KeepsWatches m) (hw : KeepsWatches w) {s t : State} (h : inStage s f d e m w = .next t) : t.watches = s.watches := by
  obtain h | ⟨k, -, h⟩ := inStage_watches hf hd hm hw h
  · exact h
  · exact he h

/-- Everything an instruction can do to the watch tables. -/
theorem exec_watches {i : Instr} {s t : State} (h : exec i s = .next t) :
    t.watches = s.watches ∨ ∃ k, s.turn = .stage k .execute ∧ WritesWatches i k s t := by
  cases i with
  | add | addImm | sub | subImm | and | andImm | or | orImm | xor | xorImm | mul | mulImm =>
    exact .inl <| inStage_keeps_watches (keepsWatches_fetchInstr _ _) (keepsWatches_decodeOperands _ _ _)
      (keepsWatches_executeAlu _) (keepsWatches_passOn _) (keepsWatches_writeBackReg _ _) h
  | sll | sllImm | srl | srlImm | sra | sraImm =>
    exact .inl <| inStage_keeps_watches (keepsWatches_fetchInstr _ _) (keepsWatches_decodeOperands _ _ _)
      (keepsWatches_executeShift _) (keepsWatches_passOn _) (keepsWatches_writeBackReg _ _) h
  | beq | bne | blt | bgt | ble | bge =>
    exact .inl <| inStage_keeps_watches (keepsWatches_fetchInstr _ _) (keepsWatches_decodeBranch _ _ _ _)
      (keepsWatches_passOn _) (keepsWatches_passOn _) keepsWatches_writeBackNothing h
  | jal =>
    exact .inl <| inStage_keeps_watches (keepsWatches_fetchInstr _ _) (keepsWatches_decodeJal _)
      (keepsWatches_passOn _) (keepsWatches_passOn _) (keepsWatches_writeBackReg _ _) h
  | halt =>
    exact .inl <| inStage_keeps_watches (keepsWatches_fetchInstr _ _) (keepsWatches_passOn _)
      (keepsWatches_passOn _) (keepsWatches_passOn _) keepsWatches_writeBackHalt h
  | lw =>
    exact .inl <| inStage_keeps_watches (keepsWatches_fetchInstr _ _) (keepsWatches_decodeOperands _ _ _)
      keepsWatches_executeAddress keepsWatches_memoryLoad (keepsWatches_writeBackReg _ _) h
  | sw =>
    exact .inl <| inStage_keeps_watches (keepsWatches_fetchInstr _ _) (keepsWatches_decodeStore _ _ _)
      keepsWatches_executeAddress keepsWatches_memoryStore keepsWatches_writeBackNothing h
  | ll rd rs rt =>
    exact (inStage_watches (keepsWatches_fetchInstr _ _) (keepsWatches_decodeOperands _ _ _) keepsWatches_memoryLoad
      (keepsWatches_writeBackReg _ _) h).imp_right fun ⟨k, ht, he⟩ =>
        ⟨k, ht, .inl ⟨rd, rs, rt, rfl, executeLoadLinked_watches he⟩⟩
  | sc rd rs rt =>
    exact (inStage_watches (keepsWatches_fetchInstr _ _) (keepsWatches_decodeStore _ _ _) keepsWatches_memoryStoreConditional
      (keepsWatches_writeBackReg _ _) h).imp_right fun ⟨k, ht, he⟩ =>
        ⟨k, ht, .inr ⟨rd, rs, rt, rfl, executeStoreConditional_watches he⟩⟩

/-- Outside Execute every instruction keeps the tables. -/
theorem exec_watches_of_turn {i : Instr} {s t : State} {k : Nat} {st : Stage} (ht : s.turn = .stage k st) (hst : st ≠ .execute)
    (h : exec i s = .next t) : t.watches = s.watches := by
  obtain h | ⟨j, hj, -⟩ := exec_watches h
  · exact h
  · rw [ht] at hj
    cases hj
    exact absurd rfl hst

/-! ## The stages and the step -/

/-- A stage writes the tables only as Execute of an LL or SC does. -/
theorem stageAction_watches {k : Nat} {st : Stage} {s t : State} (ht : s.turn = .stage k st) (h : stageAction k st s = .next t) :
    t.watches = s.watches ∨ (st = .execute ∧ ∃ i, (s.slot k .execute).content = .instr i ∧ WritesWatches i k s t) := by
  cases st with
  | writeBack =>
    obtain ⟨-, rfl⟩ | ⟨-, ⟨i, -, h⟩ | ⟨-, rfl⟩⟩ := writeBackStage_cases k s t h
    · exact .inl rfl
    · exact .inl ((exec_watches_of_turn (s := s.applyDeferred k) ht (by decide) h).trans (by simp))
    · simp
  | memory =>
    obtain ⟨-, rfl⟩ | ⟨-, ⟨i, -, h⟩ | ⟨-, rfl⟩⟩ := memoryStage_cases k s t h
    · exact .inl rfl
    · exact .inl (exec_watches_of_turn ht (by decide) h)
    · simp
  | execute =>
    obtain ⟨-, rfl⟩ | ⟨-, ⟨i, hi, h⟩ | ⟨-, rfl⟩⟩ := executeStage_cases k s t h
    · exact .inl rfl
    · obtain h | ⟨j, hj, h⟩ := exec_watches h
      · exact .inl h
      · rw [ht] at hj
        cases hj
        exact .inr ⟨rfl, i, hi, h⟩
    · simp
  | decode =>
    have hrelease : (s.modCore k Core.releaseDecode).watches = s.watches := s.watches_modCore k _ Core.watch_releaseDecode
    obtain ⟨-, rfl⟩ | ⟨-, -, rfl⟩ | ⟨-, -, ⟨i, -, h⟩ | ⟨-, rfl⟩⟩ := decodeStage_cases k s t h
    · exact .inl rfl
    · exact .inl (s.watches_modCore k _ Core.watch_holdDecode)
    · exact .inl ((exec_watches_of_turn (s := s.modCore k Core.releaseDecode) ht (by decide) h).trans hrelease)
    · exact .inl ((State.watches_pass ..).trans hrelease)
  | fetch =>
    obtain ⟨-, rfl⟩ | ⟨-, -, -, rfl⟩ | ⟨-, -, -, w, i, -, -, h⟩ := fetchStage_cases k s t h
    · exact .inl rfl
    · exact .inl (s.watches_modCore k _ Core.watch_flushFetch)
    · exact .inl (exec_watches_of_turn ht (by decide) h)

/-- A step writes the tables only as Execute of an LL or SC does (R155). -/
theorem step_watches {s t : State} (h : step s = .next t) :
    t.watches = s.watches ∨
    ∃ k i, s.turn = .stage k .execute ∧ (s.slot k .execute).content = .instr i ∧ WritesWatches i k s t := by
  obtain ⟨-, -, rfl⟩ | ⟨-, -, -, rfl⟩ | ⟨k, -, -, -, rfl⟩ | ⟨k, -, -, -, rfl⟩ | ⟨k, -, -, rfl⟩ | ⟨k, st, u, ht, hu, rfl⟩ |
    ⟨-, rfl⟩ | ⟨r, -, rfl⟩ := step_cases s t h
  · exact .inl rfl
  · exact .inl rfl
  · exact .inl rfl
  · exact .inl (s.watches_modCore k _ Core.watch_beginCycle)
  · exact .inl rfl
  · exact (stageAction_watches ht hu).imp_right fun ⟨hst, i, hi, h⟩ => ⟨k, i, hst ▸ ht, hi, h⟩
  · exact .inl s.watches_memTick
  · exact .inl (s.watches_busTick r)

/-! ## The two writes, entry by entry -/

/-- `setWatch` marks the one entry Watched (R156). -/
theorem State.watchOf_setWatch {s : State} (hs : s.Shaped) {k : Nat} (hk : k < s.nCores) (a : Word) (j : Nat) (b : Word) :
    (s.setWatch k a).watchOf j b = if j = k ∧ b = a then .watched else s.watchOf j b := by
  rw [State.watchOf, State.setWatch, State.core_modCore s j k _ hk]
  by_cases hj : j = k
  · subst hj
    simp [watchRead_watchWrite _ (hs.wf_watch j), State.watchOf]
  · simp [hj, State.watchOf]

/-- On a core that the machine does not have it marks nothing (R142). -/
theorem State.setWatch_of_le (s : State) {k : Nat} (hk : s.nCores ≤ k) (a : Word) : s.setWatch k a = s :=
  s.modCore_of_le k _ hk

/-- Core j's table after the check of core k on `a`. -/
theorem State.watch_consumeWatches (s : State) (k j : Nat) (a : Word) :
    ((s.consumeWatches k a).core j).watch =
      if s.watchOf j a = .watched then watchWrite (s.core j).watch a (.succeededFor k) else (s.core j).watch := by
  by_cases hj : j < s.nCores
  · have hlt : j < s.cores.length := hj
    simp only [State.consumeWatches, State.watchOf, State.core, List.getD_eq_getElem?_getD, List.getElem?_map,
      List.getElem?_eq_getElem hlt, Option.map_some, Option.getD_some]
    split <;> rfl
  · have hle : s.nCores ≤ j := Nat.le_of_not_lt hj
    have hle' : (s.consumeWatches k a).nCores ≤ j := by simpa [State.nCores, State.consumeWatches] using hle
    rw [State.watchOf, State.core_of_le _ j hle', State.core_of_le s j hle]
    rfl

/-- The check attributes every core's Watched entry of the address to core k and leaves every other entry (R157). -/
theorem watchesConsumed_consumeWatches {s : State} (hs : s.Shaped) (k : Nat) (a : Word) :
    WatchesConsumed s (s.consumeWatches k a) k a := by
  intro j b
  rw [State.watchOf, State.watch_consumeWatches]
  by_cases hw : s.watchOf j a = .watched
  · simp only [hw, if_true, and_true, watchRead_watchWrite _ (hs.wf_watch j)]
    rfl
  · simp only [hw, if_false, and_false]
    rfl

/-- Neither write, and so no step, clears an entry (R156): what they write is Watched or SucceededFor. -/
theorem step_keeps_watched {s t : State} (hs : s.Shaped) (h : step s = .next t) (j : Nat) (b : Word)
    (hb : s.watchOf j b ≠ .notWatched) : t.watchOf j b ≠ .notWatched := by
  obtain h | ⟨k, i, -, -, ⟨-, -, -, -, h⟩ | ⟨-, -, -, -, h⟩⟩ := step_watches h <;> rw [State.watchOf_congr h]
  · exact hb
  · by_cases hk : k < s.nCores
    · rw [State.watchOf_setWatch hs hk]
      split
      · exact Watch.noConfusion
      · exact hb
    · rwa [State.setWatch_of_le s (Nat.le_of_not_lt hk)]
  · rw [watchesConsumed_consumeWatches hs k _ j b]
    split
    · exact Watch.noConfusion
    · exact hb

/-! ## The statements -/

/-- Settles O40: the entry that `setWatch` writes, and the two writes that a step can make. -/
theorem setWatchMarksOneEntry : Obligations.SetWatchMarksOneEntry :=
  fun _ j b hs => ⟨fun _ a hk => State.watchOf_setWatch hs hk a j b, fun _ h => step_keeps_watched hs h j b⟩

end Sys2Proof.Machine
end

section
/-! PROOFS. The family of 53_memory_unit.md: when the memory unit takes an operation. Both operations are `beginMemOp`, whose two answers are the laws
`beginMemOp_busy` and `beginMemOp_idle`. -/

namespace Sys2Proof.Machine

/-! ## The statements -/

/-- Settles O44: the two answers of `beginMemOp`, each for the read and for the write. -/
theorem beginIsRejectedWhileBusy : Obligations.BeginIsRejectedWhileBusy := by
  intro s a d
  constructor
  · intro hbusy
    obtain ⟨op, hop⟩ := Option.ne_none_iff_exists'.mp hbusy
    exact ⟨s.beginMemOp_busy .read a op hop, s.beginMemOp_busy (.write d) a op hop⟩
  · intro hidle
    exact ⟨s.beginMemOp_idle .read a hidle, s.beginMemOp_idle (.write d) a hidle⟩

end Sys2Proof.Machine
end

section
/-! PROOFS. The word form (30_encoding.md sections 2 and 4): an instruction is read back from its word, a word the decoder accepts is the word of
what it gives, and the words it accepts are those of the opcode table. -/

namespace Sys2Proof

/-! ## Decoding a packed word -/

@[simp] theorem decodeWord_packWord (sel : Bool) (op : BitVec 7) (rd rs rt : Reg) (imm : Imm) :
    decodeWord (packWord sel op rd rs rt imm) = decodeFields sel op rd rs rt imm := by
  simp [decodeWord]

/-- The load-time check in the words of R69. -/
theorem Instr.wf_iff (i : Instr) : i.wf = true ↔ (i.variant = .registerOp ∨ i.variant = .memoryOp → i.rd ≠ 1) := by
  simp [Instr.wf, Instr.reg1Dest, imp_iff_not_or, not_or]

/-! ## What each format accepts (R64) -/

theorem formatR_eq_ok {c : Reg → Reg → Reg → Instr} {rd rs rt : Reg} {imm : Imm} {i : Instr} :
    formatR c rd rs rt imm = .ok i ↔ imm = 0 ∧ rd ≠ 1 ∧ c rd rs rt = i := by
  grind [formatR]

theorem formatRI_eq_ok {c : Reg → Reg → Imm → Instr} {rd rs rt : Reg} {imm : Imm} {i : Instr} :
    formatRI c rd rs rt imm = .ok i ↔ rt = 0 ∧ rd ≠ 1 ∧ c rd rs imm = i := by
  grind [formatRI]

theorem formatB_eq_ok {c : Reg → Reg → Imm → Instr} {rd rs rt : Reg} {imm : Imm} {i : Instr} :
    formatB c rd rs rt imm = .ok i ↔ rd = 0 ∧ c rs rt imm = i := by
  grind [formatB]

theorem formatJ_eq_ok {rd rs rt : Reg} {imm : Imm} {i : Instr} :
    formatJ rd rs rt imm = .ok i ↔ rs = 0 ∧ rt = 0 ∧ Instr.jal rd imm = i := by
  grind [formatJ]

theorem formatM_eq_ok {c : Reg → Reg → Reg → Instr} {rd rs rt : Reg} {imm : Imm} {i : Instr} :
    formatM c rd rs rt imm = .ok i ↔ imm = 0 ∧ rd ≠ 1 ∧ c rd rs rt = i :=
  formatR_eq_ok

theorem formatH_eq_ok {rd rs rt : Reg} {imm : Imm} {i : Instr} :
    formatH rd rs rt imm = .ok i ↔ rd = 0 ∧ rs = 0 ∧ rt = 0 ∧ imm = 0 ∧ Instr.halt = i := by
  grind [formatH]

/-! ## The two round trips -/

/-- Settles O2: each row's format accepts the fields that its constructor packs. -/
theorem decodeOfEncode : Obligations.DecodeOfEncode := by
  intro i hwf
  rw [Instr.wf_iff] at hwf
  cases i <;> simp only [encode, decodeWord_packWord]
  case add | sub | and | or | xor | mul | sll | srl | sra => exact formatR_eq_ok.mpr ⟨rfl, hwf (.inl rfl), rfl⟩
  case addImm | subImm | andImm | orImm | xorImm | mulImm | sllImm | srlImm | sraImm =>
    exact formatRI_eq_ok.mpr ⟨rfl, hwf (.inl rfl), rfl⟩
  case beq | bne | blt | bgt | ble | bge => exact formatB_eq_ok.mpr ⟨rfl, rfl⟩
  case jal => exact formatJ_eq_ok.mpr ⟨rfl, rfl, rfl⟩
  case lw | sw | ll | sc => exact formatM_eq_ok.mpr ⟨rfl, hwf (.inr rfl), rfl⟩
  case halt => exact formatH_eq_ok.mpr ⟨rfl, rfl, rfl, rfl, rfl⟩

/-- The fields that decode are the fields that the instruction packs, and it passes the load-time check. -/
theorem encode_of_decodeFields {sel : Bool} {op : BitVec 7} {rd rs rt : Reg} {imm : Imm} {i : Instr}
    (h : decodeFields sel op rd rs rt imm = .ok i) : encode i = packWord sel op rd rs rt imm ∧ i.wf = true := by
  have hop : ∀ n : Nat, op.toNat = n → op = BitVec.ofNat 7 n := fun n hn => by rw [← hn, BitVec.ofNat_toNat, BitVec.setWidth_eq]
  unfold decodeFields at h
  split at h
  case h_1 hn | h_3 hn | h_5 hn | h_7 hn | h_9 hn | h_11 hn | h_13 hn | h_15 hn | h_17 hn | h_26 hn | h_27 hn | h_28 hn | h_29 hn =>
    obtain ⟨rfl, hrd, rfl⟩ := formatR_eq_ok.mp h
    exact ⟨by rw [hop _ hn]; rfl, (Instr.wf_iff _).mpr fun _ => hrd⟩
  case h_2 hn | h_4 hn | h_6 hn | h_8 hn | h_10 hn | h_12 hn | h_14 hn | h_16 hn | h_18 hn =>
    obtain ⟨rfl, hrd, rfl⟩ := formatRI_eq_ok.mp h
    exact ⟨by rw [hop _ hn]; rfl, (Instr.wf_iff _).mpr fun _ => hrd⟩
  case h_19 hn | h_20 hn | h_21 hn | h_22 hn | h_23 hn | h_24 hn =>
    obtain ⟨rfl, rfl⟩ := formatB_eq_ok.mp h
    exact ⟨by rw [hop _ hn]; rfl, rfl⟩
  case h_25 hn =>
    obtain ⟨rfl, rfl, rfl⟩ := formatJ_eq_ok.mp h
    exact ⟨by rw [hop _ hn]; rfl, rfl⟩
  case h_30 hn =>
    obtain ⟨rfl, rfl, rfl, rfl, rfl⟩ := formatH_eq_ok.mp h
    exact ⟨by rw [hop _ hn]; rfl, rfl⟩
  case h_31 => split at h <;> cases h

/-- Settles O3: a word is the word packed from its fields. -/
theorem encodeOfDecode : Obligations.EncodeOfDecode := by
  intro w i h
  obtain ⟨henc, hwf⟩ := encode_of_decodeFields h
  exact ⟨henc.trans (packWord_fields w), hwf⟩

/-! ## The opcode table (R66) -/

theorem encode_and_mask (i : Instr) : encode i &&& i.row.mask = i.row.pattern := by
  cases i with
  | add => exact Laws.EncodesItsRow.add ..
  | addImm => exact Laws.EncodesItsRow.addImm ..
  | sub => exact Laws.EncodesItsRow.sub ..
  | subImm => exact Laws.EncodesItsRow.subImm ..
  | and => exact Laws.EncodesItsRow.and ..
  | andImm => exact Laws.EncodesItsRow.andImm ..
  | or => exact Laws.EncodesItsRow.or ..
  | orImm => exact Laws.EncodesItsRow.orImm ..
  | xor => exact Laws.EncodesItsRow.xor ..
  | xorImm => exact Laws.EncodesItsRow.xorImm ..
  | mul => exact Laws.EncodesItsRow.mul ..
  | mulImm => exact Laws.EncodesItsRow.mulImm ..
  | sll => exact Laws.EncodesItsRow.sll ..
  | sllImm => exact Laws.EncodesItsRow.sllImm ..
  | srl => exact Laws.EncodesItsRow.srl ..
  | srlImm => exact Laws.EncodesItsRow.srlImm ..
  | sra => exact Laws.EncodesItsRow.sra ..
  | sraImm => exact Laws.EncodesItsRow.sraImm ..
  | beq => exact Laws.EncodesItsRow.beq ..
  | bne => exact Laws.EncodesItsRow.bne ..
  | blt => exact Laws.EncodesItsRow.blt ..
  | bgt => exact Laws.EncodesItsRow.bgt ..
  | ble => exact Laws.EncodesItsRow.ble ..
  | bge => exact Laws.EncodesItsRow.bge ..
  | jal => exact Laws.EncodesItsRow.jal ..
  | lw => exact Laws.EncodesItsRow.lw ..
  | sw => exact Laws.EncodesItsRow.sw ..
  | ll => exact Laws.EncodesItsRow.ll ..
  | sc => exact Laws.EncodesItsRow.sc ..
  | halt => exact Laws.EncodesItsRow.halt

@[simp] theorem rdField_encode (i : Instr) : rdField (encode i) = i.rd := by
  cases i <;> exact rdField_packWord ..

/-- The instruction of a row with the operand fields of `w`. -/
def Instr.withFields (w : BitVec 32) : Instr → Instr
  | .add .. => .add (rdField w) (rsField w) (rtField w)
  | .addImm .. => .addImm (rdField w) (rsField w) (immField w)
  | .sub .. => .sub (rdField w) (rsField w) (rtField w)
  | .subImm .. => .subImm (rdField w) (rsField w) (immField w)
  | .and .. => .and (rdField w) (rsField w) (rtField w)
  | .andImm .. => .andImm (rdField w) (rsField w) (immField w)
  | .or .. => .or (rdField w) (rsField w) (rtField w)
  | .orImm .. => .orImm (rdField w) (rsField w) (immField w)
  | .xor .. => .xor (rdField w) (rsField w) (rtField w)
  | .xorImm .. => .xorImm (rdField w) (rsField w) (immField w)
  | .mul .. => .mul (rdField w) (rsField w) (rtField w)
  | .mulImm .. => .mulImm (rdField w) (rsField w) (immField w)
  | .sll .. => .sll (rdField w) (rsField w) (rtField w)
  | .sllImm .. => .sllImm (rdField w) (rsField w) (immField w)
  | .srl .. => .srl (rdField w) (rsField w) (rtField w)
  | .srlImm .. => .srlImm (rdField w) (rsField w) (immField w)
  | .sra .. => .sra (rdField w) (rsField w) (rtField w)
  | .sraImm .. => .sraImm (rdField w) (rsField w) (immField w)
  | .beq .. => .beq (rsField w) (rtField w) (immField w)
  | .bne .. => .bne (rsField w) (rtField w) (immField w)
  | .blt .. => .blt (rsField w) (rtField w) (immField w)
  | .bgt .. => .bgt (rsField w) (rtField w) (immField w)
  | .ble .. => .ble (rsField w) (rtField w) (immField w)
  | .bge .. => .bge (rsField w) (rtField w) (immField w)
  | .jal .. => .jal (rdField w) (immField w)
  | .lw .. => .lw (rdField w) (rsField w) (rtField w)
  | .sw .. => .sw (rdField w) (rsField w) (rtField w)
  | .ll .. => .ll (rdField w) (rsField w) (rtField w)
  | .sc .. => .sc (rdField w) (rsField w) (rtField w)
  | .halt => .halt

theorem Instr.row_withFields (w : BitVec 32) (r : Instr) : (r.withFields w).row = r.row := by cases r <;> rfl

theorem Instr.variant_withFields (w : BitVec 32) (r : Instr) : (r.withFields w).variant = r.variant := by cases r <;> rfl

theorem Instr.rd_withFields (w : BitVec 32) (r : Instr) (h : r.variant = .registerOp ∨ r.variant = .memoryOp) :
    (r.withFields w).rd = rdField w := by
  cases r
  case beq | bne | blt | bgt | ble | bge | jal | halt => simp [Instr.variant] at h
  all_goals rfl

/-- A masked word says of the word's fields what the mask's fields keep of them. -/
theorem fields_of_and_packWord {w : BitVec 32} {ms s : Bool} {mo o : BitVec 7} {md ma mb d a b : Reg} {mi i : Imm}
    (h : w &&& packWord ms mo md ma mb mi = packWord s o d a b i) :
    (selectField w && ms) = s ∧ opcodeField w &&& mo = o ∧ rdField w &&& md = d ∧ rsField w &&& ma = a ∧
      rtField w &&& mb = b ∧ immField w &&& mi = i := by
  rw [← packWord_fields w, packWord_and] at h
  exact ⟨by simpa using congrArg selectField h, by simpa using congrArg opcodeField h, by simpa using congrArg rdField h,
    by simpa using congrArg rsField h, by simpa using congrArg rtField h, by simpa using congrArg immField h⟩

/-- A field that the mask keeps whole is the field. -/
theorem and_ones {n : Nat} (x m : BitVec n) (hm : m = BitVec.allOnes n) : x &&& m = x := by
  rw [hm, BitVec.and_allOnes]

/-- A word of a format R or M row. -/
theorem packWord_of_maskR {w : BitVec 32} {o : BitVec 7} (h : w &&& 0xFF000FFF = packWord false o 0 0 0 0) :
    packWord false o (rdField w) (rsField w) (rtField w) 0 = w := by
  obtain ⟨hs, ho, -, -, -, hi⟩ := fields_of_and_packWord (mask_formatR ▸ h)
  rw [and_ones _ _ (by decide)] at ho hi
  rw [Bool.and_true] at hs
  have hw := packWord_fields w
  rwa [hs, ho, hi] at hw

/-- A word of a format RI row. -/
theorem packWord_of_maskRI {w : BitVec 32} {o : BitVec 7} (h : w &&& 0xFF00F000 = packWord true o 0 0 0 0) :
    packWord true o (rdField w) (rsField w) 0 (immField w) = w := by
  obtain ⟨hs, ho, -, -, ht, -⟩ := fields_of_and_packWord (mask_formatRI ▸ h)
  rw [and_ones _ _ (by decide)] at ho ht
  rw [Bool.and_true] at hs
  have hw := packWord_fields w
  rwa [hs, ho, ht] at hw

/-- A word of a format B row. -/
theorem packWord_of_maskB {w : BitVec 32} {o : BitVec 7} (h : w &&& 0xFFF00000 = packWord false o 0 0 0 0) :
    packWord false o 0 (rsField w) (rtField w) (immField w) = w := by
  obtain ⟨hs, ho, hd, -, -, -⟩ := fields_of_and_packWord (mask_formatB ▸ h)
  rw [and_ones _ _ (by decide)] at ho hd
  rw [Bool.and_true] at hs
  have hw := packWord_fields w
  rwa [hs, ho, hd] at hw

/-- A word of JAL's row. -/
theorem packWord_of_maskJ {w : BitVec 32} {o : BitVec 7} (h : w &&& 0xFF0FF000 = packWord false o 0 0 0 0) :
    packWord false o (rdField w) 0 0 (immField w) = w := by
  obtain ⟨hs, ho, -, ha, hb, -⟩ := fields_of_and_packWord (mask_formatJ ▸ h)
  rw [and_ones _ _ (by decide)] at ho ha hb
  rw [Bool.and_true] at hs
  have hw := packWord_fields w
  rwa [hs, ho, ha, hb] at hw

/-- A word of a row is the word of the row's instruction with the word's operand fields. -/
theorem encode_withFields {w : BitVec 32} {r : Instr} (h : w &&& r.row.mask = r.row.pattern) : encode (r.withFields w) = w := by
  cases r
  case add | sub | and | or | xor | mul | sll | srl | sra | lw | sw | ll | sc =>
    exact packWord_of_maskR (h.trans rfl)
  case addImm | subImm | andImm | orImm | xorImm | mulImm | sllImm | srlImm | sraImm =>
    exact packWord_of_maskRI (h.trans rfl)
  case beq | bne | blt | bgt | ble | bge => exact packWord_of_maskB (h.trans rfl)
  case jal => exact packWord_of_maskJ (h.trans rfl)
  case halt => exact ((and_ones w _ (by decide)).symm.trans h).symm

/-- Settles O4: by the two round trips an accepted word is its instruction's word, and a word of a row is the word of the row's instruction with
the word's operand fields. -/
theorem decoderAcceptsTheTable : Obligations.DecoderAcceptsTheTable := by
  constructor
  · intro w i h
    obtain ⟨rfl, hwf⟩ := encodeOfDecode w i h
    rw [rdField_encode]
    exact ⟨encode_and_mask i, (Instr.wf_iff i).mp hwf⟩
  · intro w r h hrd
    have hwf : (r.withFields w).wf = true := by
      rw [Instr.wf_iff, Instr.variant_withFields]
      intro hv
      rw [Instr.rd_withFields w r hv]
      exact hrd hv
    refine ⟨r.withFields w, ?_, r.row_withFields w⟩
    have hdec := decodeOfEncode (r.withFields w) hwf
    rwa [encode_withFields h] at hdec

/-! ## Words written out in the spec -/

/-- Settles O1: the eight legal words are those of their instructions, which O2 reads back; the four illegal ones are rejected by their fields. -/
theorem wordsOfTheSpecDecode : Obligations.WordsOfTheSpecDecode :=
  ⟨decodeOfEncode (.addImm 2 0 7) rfl, decodeOfEncode (.add 4 2 3) rfl, decodeOfEncode (.sraImm 7 6 2) rfl,
    decodeOfEncode (.bgt 2 0 3) rfl, decodeOfEncode (.jal 1 3) rfl, decodeOfEncode (.sw 3 2 0) rfl,
    decodeOfEncode (.sc 3 2 0) rfl, decodeOfEncode .halt rfl, by decide, by decide, by decide, by decide⟩

end Sys2Proof
end

section
/-! PROOFS. What an instruction does in each stage: its five actions by the row of the opcode table, and everything each of them can answer. From
these the statements about one stage of an instruction: Fetch, the shifts that raise, Decode's reads and its stop, Write-back's one write. -/

namespace Sys2Proof.Machine

/-! ## The five actions of an instruction -/

/-- By how much Fetch of the instruction moves `pc` on: HALT does not (R109, R115). -/
def fetchAdvance (i : Instr) : Word := if i = .halt then 0 else 1

/-- What the instruction does in Decode (R116). -/
def decodeAction : Instr → StageAction
  | .add rd rs rt | .sub rd rs rt | .and rd rs rt | .or rd rs rt | .xor rd rs rt | .mul rd rs rt
  | .sll rd rs rt | .srl rd rs rt | .sra rd rs rt | .lw rd rs rt | .ll rd rs rt => decodeOperands rd rs (.reg rt)
  | .addImm rd rs imm | .subImm rd rs imm | .andImm rd rs imm | .orImm rd rs imm | .xorImm rd rs imm | .mulImm rd rs imm
  | .sllImm rd rs imm | .srlImm rd rs imm | .sraImm rd rs imm => decodeOperands rd rs (.imm imm)
  | .beq rs rt imm => decodeBranch .eq rs rt imm
  | .bne rs rt imm => decodeBranch .ne rs rt imm
  | .blt rs rt imm => decodeBranch .lt rs rt imm
  | .bgt rs rt imm => decodeBranch .gt rs rt imm
  | .ble rs rt imm => decodeBranch .le rs rt imm
  | .bge rs rt imm => decodeBranch .ge rs rt imm
  | .jal _ imm => decodeJal imm
  | .sw rd rs rt | .sc rd rs rt => decodeStore rd rs rt
  | .halt => passOn .decode

/-- What the instruction does in Execute (R123). -/
def executeAction : Instr → StageAction
  | .add .. | .addImm .. => executeAlu addFn
  | .sub .. | .subImm .. => executeAlu subFn
  | .and .. | .andImm .. => executeAlu andFn
  | .or .. | .orImm .. => executeAlu orFn
  | .xor .. | .xorImm .. => executeAlu xorFn
  | .mul .. | .mulImm .. => executeAlu mulFn
  | .sll .. | .sllImm .. => executeShift sllFn
  | .srl .. | .srlImm .. => executeShift srlFn
  | .sra .. | .sraImm .. => executeShift sraFn
  | .lw .. | .sw .. => executeAddress
  | .ll .. => executeLoadLinked
  | .sc .. => executeStoreConditional
  | .beq .. | .bne .. | .blt .. | .bgt .. | .ble .. | .bge .. | .jal .. | .halt => passOn .execute

/-- What the instruction does in the Memory stage (R124). -/
def memoryAction : Instr → StageAction
  | .lw .. | .ll .. => memoryLoad
  | .sw .. => memoryStore
  | .sc .. => memoryStoreConditional
  | _ => passOn .memory

/-- What the instruction does in Write-back (R128). -/
def writeBackAction : Instr → StageAction
  | .add rd .. | .addImm rd .. | .sub rd .. | .subImm rd .. | .and rd .. | .andImm rd .. | .or rd .. | .orImm rd ..
  | .xor rd .. | .xorImm rd .. | .mul rd .. | .mulImm rd .. | .sll rd .. | .sllImm rd .. | .srl rd .. | .srlImm rd ..
  | .sra rd .. | .sraImm rd .. | .sc rd .. => writeBackReg rd Slot.result
  | .lw rd .. | .ll rd .. => writeBackReg rd Slot.ldata
  | .jal .. => writeBackReg linkReg Slot.ret
  | .beq .. | .bne .. | .blt .. | .bgt .. | .ble .. | .bge .. | .sw .. => writeBackNothing
  | .halt => writeBackHalt

/-- Every instruction acts by its five actions. -/
theorem exec_eq_inStage (i : Instr) (s : State) :
    exec i s =
      inStage s (fetchInstr i (fetchAdvance i)) (decodeAction i) (executeAction i) (memoryAction i) (writeBackAction i) := by
  cases i <;> rfl

section
variable {s : State} {k : Nat} (i : Instr)

theorem exec_fetch (h : s.turn = .stage k .fetch) : exec i s = fetchInstr i (fetchAdvance i) k s := by
  rw [exec_eq_inStage, inStage_fetch _ _ _ _ _ _ _ h]

theorem exec_decode (h : s.turn = .stage k .decode) : exec i s = decodeAction i k s := by
  rw [exec_eq_inStage, inStage_decode _ _ _ _ _ _ _ h]

theorem exec_execute (h : s.turn = .stage k .execute) : exec i s = executeAction i k s := by
  rw [exec_eq_inStage, inStage_execute _ _ _ _ _ _ _ h]

theorem exec_memory (h : s.turn = .stage k .memory) : exec i s = memoryAction i k s := by
  rw [exec_eq_inStage, inStage_memory _ _ _ _ _ _ _ h]

theorem exec_writeBack (h : s.turn = .stage k .writeBack) : exec i s = writeBackAction i k s := by
  rw [exec_eq_inStage, inStage_writeBack _ _ _ _ _ _ _ h]

end

/-! ## Fetch -/

/-- The core after Fetch of an instruction (R115, R181). -/
def Core.fetched (c : Core) (i : Instr) : Core :=
  { c with
    slots := { c.slots with fetch := freshSlot i c.pc, decode := freshSlot i c.pc }
    pc := c.pc + fetchAdvance i
    util := { c.util with fetch := c.util.fetch + 1 } }

theorem exec_fetch_eq (i : Instr) {s : State} {k : Nat} (h : s.turn = .stage k .fetch) :
    exec i s = .next (s.modCore k fun c => c.fetched i) :=
  exec_fetch i h

theorem add_fetchAdvance (i : Instr) (pc : Word) : pc + fetchAdvance i = if i = .halt then pc else pc + 1 := by
  unfold fetchAdvance
  split
  · exact BitVec.add_zero _
  · rfl

/-- Settles O9: all instructions have one Fetch, `exec_fetch_eq`. -/
theorem fetchEntersThePipeline : Obligations.FetchEntersThePipeline := by
  intro i s k ht hk
  refine ⟨_, freshSlot i (s.core k).pc, exec_fetch_eq i ht, rfl, rfl, sameOutside_modCore k s _, rfl, ?_⟩
  rw [State.core_modCore_self _ _ _ hk, Core.fetched, add_fetchAdvance]

/-! ## Decode -/

/-- Decode of an instruction stops on `rd` = 1 where the load-time check would, and otherwise hands the record on with the operands, the branches and
JAL perhaps after sending `pc` to their target. -/
theorem decodeAction_cases (i : Instr) (k : Nat) (s : State) :
    (i.wf = false ∧ decodeAction i k s = s.raise k (.reg1Destination (s.slot k .decode).ipc)) ∨
    (i.wf = true ∧ ∃ v,
      (decodeAction i k s = .next (s.pass k .decode v) ∨
        ∃ a, decodeAction i k s = .next ((s.redirect k a).pass k .decode v)) ∧
      v.content = (s.slot k .decode).content) := by
  cases i
  case beq | bne | blt | bgt | ble | bge =>
    simp only [decodeAction, decodeBranch]
    split
    · exact .inr ⟨rfl, _, .inr ⟨_, rfl⟩, rfl⟩
    · exact .inr ⟨rfl, _, .inl rfl, rfl⟩
  case jal => exact .inr ⟨rfl, _, .inr ⟨_, rfl⟩, rfl⟩
  case halt => exact .inr ⟨rfl, _, .inl rfl, rfl⟩
  case sw rd _ _ | sc rd _ _ =>
    by_cases hrd : rd = 1
    · exact .inl ⟨by rw [hrd]; rfl, if_pos hrd⟩
    · exact .inr ⟨(Instr.wf_iff _).mpr fun _ => hrd, _, .inl (if_neg hrd), rfl⟩
  all_goals
    rename_i rd _ _
    by_cases hrd : rd = 1
    · exact .inl ⟨by rw [hrd]; rfl, if_pos hrd⟩
    · exact .inr ⟨(Instr.wf_iff _).mpr fun _ => hrd, _, .inl (if_neg hrd), rfl⟩

/-- The registers that Decode of the instruction reads, but for registers 0 and 1, are its sources (R117). -/
theorem not_mem_sourceFields {i : Instr} {r : Reg} (h : r ∉ sourceRegs i) (h0 : r ≠ 0) (h1 : r ≠ 1) : r ∉ sourceFields i :=
  fun hmem => h (List.mem_filter.mpr ⟨hmem, by simpa using And.intro h0 h1⟩)

/-- The machine with register r of core k set to v. -/
def State.withReg (s : State) (k : Nat) (r : Reg) (v : Word) : State :=
  s.modCore k fun c => { c with regs := c.regs.set r.toNat v r.isLt }

section
variable (s : State) (k : Nat) {r : Reg} (v : Word)

theorem State.reg_withReg_ne {q : Reg} (h : q ≠ r) : (s.withReg k r v).reg k q = s.reg k q := by
  have hne : r.toNat ≠ q.toNat := fun heq => h (BitVec.eq_of_toNat_eq heq).symm
  by_cases hk : k < s.nCores
  · simp [State.reg, State.withReg, hk, hne]
  · rw [State.withReg, State.modCore_of_le _ _ _ (Nat.le_of_not_lt hk)]

theorem State.slot_withReg (st : Stage) : (s.withReg k r v).slot k st = s.slot k st := by
  by_cases hk : k < s.nCores
  · simp [State.slot, State.withReg, hk]
  · rw [State.withReg, State.modCore_of_le _ _ _ (Nat.le_of_not_lt hk)]

/-- A stage's hand-over and the setting of a register do not touch each other. -/
theorem State.pass_withReg (st : Stage) (x : Slot) : (s.withReg k r v).pass k st x = (s.pass k st x).withReg k r v := by
  simp only [State.withReg, State.pass, State.setSlot, State.modCore_modCore]
  rfl

theorem State.redirect_withReg (a : Word) : (s.withReg k r v).redirect k a = (s.redirect k a).withReg k r v := by
  simp only [State.withReg, State.redirect, State.modCore_modCore]
  rfl

theorem readOperands_withReg {rs : Reg} {b : OperandB} (hrs : rs ≠ r) (hb : ∀ rt, b = .reg rt → rt ≠ r) :
    readOperands (s.withReg k r v) k rs b = readOperands s k rs b := by
  have hvalue : b.value (s.withReg k r v) k = b.value s k := by
    cases b with
    | reg rt => exact s.reg_withReg_ne k v (hb rt rfl)
    | imm _ => rfl
  rw [readOperands, hvalue, s.reg_withReg_ne k v hrs, s.slot_withReg k v, readOperands]

end

/-- An action of Decode that does not read register r: to set it before or after is the same. -/
def IgnoresReg (f : StageAction) (r : Reg) : Prop :=
  ∀ ⦃k : Nat⦄ ⦃s t : State⦄ (v : Word), f k s = .next t → f k (s.withReg k r v) = .next (t.withReg k r v)

theorem decodeOperands_ignoresReg {rd rs r : Reg} {b : OperandB} (hrs : rs ≠ r) (hb : ∀ rt, b = .reg rt → rt ≠ r) :
    IgnoresReg (decodeOperands rd rs b) r := by
  intro k s t v h
  obtain ⟨hrd, rfl⟩ := (decodeOperands_next ..).mp h
  exact (decodeOperands_next ..).mpr ⟨hrd, by rw [readOperands_withReg s k v hrs hb, State.pass_withReg]⟩

theorem decodeStore_ignoresReg {rd rs rt r : Reg} (hrd : rd ≠ r) (hrs : rs ≠ r) (hrt : rt ≠ r) :
    IgnoresReg (decodeStore rd rs rt) r := by
  intro k s t v h
  obtain ⟨h1, rfl⟩ := (decodeStore_next ..).mp h
  have hread := readOperands_withReg (b := .reg rt) s k v hrs (by simpa using hrt)
  exact (decodeStore_next ..).mpr ⟨h1, by rw [hread, s.reg_withReg_ne k v hrd, State.pass_withReg]⟩

theorem decodeBranch_ignoresReg {c : Cond} {rs rt r : Reg} {imm : Imm} (hrs : rs ≠ r) (hrt : rt ≠ r) :
    IgnoresReg (decodeBranch c rs rt imm) r := by
  intro k s t v h
  obtain rfl := (decodeBranch_next ..).mp h
  have hread := readOperands_withReg (b := .reg rt) s k v hrs (by simpa using hrt)
  rw [decodeBranch_next, hread, s.reg_withReg_ne k v hrs, s.reg_withReg_ne k v hrt]
  split
  · rw [State.redirect_withReg, State.pass_withReg]
  · rw [State.pass_withReg]

theorem decodeJal_ignoresReg {r : Reg} {imm : Imm} (h0 : r ≠ 0) : IgnoresReg (decodeJal imm) r := by
  intro k s t v h
  obtain rfl := (decodeJal_next ..).mp h
  have hread := readOperands_withReg (b := .reg 0) s k v (Ne.symm h0) (by simpa using Ne.symm h0)
  rw [decodeJal_next, hread, s.slot_withReg k v, State.redirect_withReg, State.pass_withReg]

theorem passOn_ignoresReg {r : Reg} (st : Stage) : IgnoresReg (passOn st) r := by
  rintro k s t v ⟨⟩
  rw [passOn, State.slot_withReg, State.pass_withReg]

/-- Settles O29: each form of Decode reads the source fields of its instruction, and JAL register 0 besides. -/
theorem decodeReadsOnlyItsSources : Obligations.DecodeReadsOnlyItsSources := by
  intro i s t k r v ht hk hsrc h0 h1 h
  have hfields := not_mem_sourceFields hsrc h0 h1
  have hignores : IgnoresReg (decodeAction i) r := by
    cases i
    case jal => exact decodeJal_ignoresReg h0
    case halt => exact passOn_ignoresReg .decode
    all_goals simp only [sourceFields, List.mem_cons, List.not_mem_nil, or_false, not_or] at hfields
    case sw | sc => exact decodeStore_ignoresReg (Ne.symm hfields.2.2) (Ne.symm hfields.1) (Ne.symm hfields.2.1)
    case beq | bne | blt | bgt | ble | bge => exact decodeBranch_ignoresReg (Ne.symm hfields.1) (Ne.symm hfields.2)
    case addImm | subImm | andImm | orImm | xorImm | mulImm | sllImm | srlImm | sraImm =>
      exact decodeOperands_ignoresReg (Ne.symm hfields) (by simp)
    all_goals exact decodeOperands_ignoresReg (Ne.symm hfields.1) (by simpa using Ne.symm hfields.2)
  have hturn : (s.withReg k r v).turn = .stage k .decode := ht
  rw [exec_decode i ht] at h
  exact (exec_decode i hturn).trans (hignores v h)

/-! ## Execute -/

/-- A shift by an amount outside 0 .. 31 raises (R85, R172). -/
theorem executeShift_fault (f : Word → Nat → Word) {k : Nat} {s : State}
    (h : (s.slot k .execute).b.toInt < 0 ∨ 31 < (s.slot k .execute).b.toInt) :
    executeShift f k s = s.raise k (.shiftFault (s.slot k .execute).ipc (s.slot k .execute).b.toInt) :=
  if_pos h

/-- Everything Execute of an instruction can answer. -/
theorem executeAction_cases (i : Instr) (k : Nat) (s : State) :
    executeAction i k s = s.raise k (.shiftFault (s.slot k .execute).ipc (s.slot k .execute).b.toInt) ∨
    ∃ v,
      (executeAction i k s = .next (s.pass k .execute v) ∨
        (∃ a, executeAction i k s = .next ((s.setWatch k a).pass k .execute v)) ∨
        ∃ a, executeAction i k s = .next ((s.consumeWatches k a).pass k .execute v)) ∧
      v.content = (s.slot k .execute).content := by
  cases i
  case ll => exact .inr ⟨_, .inr (.inl ⟨_, rfl⟩), rfl⟩
  case sc => exact .inr ⟨_, .inr (.inr ⟨_, rfl⟩), rfl⟩
  case sll | sllImm | srl | srlImm | sra | sraImm =>
    simp only [executeAction, executeShift]
    split
    · exact .inl rfl
    · exact .inr ⟨_, .inl rfl, rfl⟩
  all_goals exact .inr ⟨_, .inl rfl, rfl⟩

/-- Settles O16: the six forms share `executeShift`. -/
theorem shiftAmountOutsideFaults : Obligations.ShiftAmountOutsideFaults := by
  intro s k i ht hi hb
  rw [exec_execute i ht]
  obtain ⟨rd, rs, rt, rfl | rfl | rfl⟩ | ⟨rd, rs, imm, rfl | rfl | rfl⟩ := hi <;> exact executeShift_fault _ hb

/-! ## Memory -/

section
variable {k : Nat} {s : State}

/-- Outside memory a load and a store raise, before the cache is asked (R171). -/
theorem checkingAddress_fault (f : StageAction) (h : (s.slot k .memory).addr.toNat ≥ s.cfg.memWords) :
    checkingAddress f k s = s.raise k (.addressFault (s.slot k .memory).ipc (s.slot k .memory).addr) :=
  if_pos h

theorem checkingAddress_of_lt (f : StageAction) (h : (s.slot k .memory).addr.toNat < s.cfg.memWords) :
    checkingAddress f k s = f k s :=
  if_neg (Nat.not_le.mpr h)

/-- A load that hits counts a hit and hands the word of the line on (R99). -/
theorem memoryLoad_hit (h : (s.slot k .memory).addr.toNat < s.cfg.memWords)
    (hcopy : (s.core k).cache.hasCopy s.cfg.indexBits (s.slot k .memory).addr = true) :
    memoryLoad k s =
      .next ((s.modCache k fun c => { c with hits := c.hits + 1 }).pass k .memory
        { s.slot k .memory with ldata := s.lineData k (s.slot k .memory).addr }) := by
  simp only [memoryLoad, checkingAddress_of_lt _ h, Cache.read_eq, hcopy, if_true]
  rfl

/-- A load that misses counts a miss, freezes its core and asks the bus for the line (R99, R125). -/
theorem memoryLoad_miss (h : (s.slot k .memory).addr.toNat < s.cfg.memWords)
    (hcopy : (s.core k).cache.hasCopy s.cfg.indexBits (s.slot k .memory).addr = false) :
    memoryLoad k s =
      .next ((s.modCache k fun c => { c with misses := c.misses + 1 }).miss k .busRd (s.slot k .memory).addr) := by
  simp only [memoryLoad, checkingAddress_of_lt _ h, Cache.read_eq, hcopy, Bool.false_eq_true, if_false]
  rfl

/-- A store into an own Modified line (R100, R135). -/
theorem memoryStore_hit (h : (s.slot k .memory).addr.toNat < s.cfg.memWords)
    (howns : (s.core k).cache.owns s.cfg.indexBits (s.slot k .memory).addr = true) :
    memoryStore k s =
      .next ((s.modCache k fun c => (c.write s.cfg.indexBits (s.slot k .memory).addr (s.slot k .memory).sdata).2).pass k .memory
        (s.slot k .memory)) := by
  simp only [memoryStore, checkingAddress_of_lt _ h, Cache.write, howns, if_true]
  simp only [State.modCache, State.modCore, howns, if_true]

/-- A store without an own Modified line freezes its core and asks the bus for the line, uncounted (R100, D17). -/
theorem memoryStore_miss (h : (s.slot k .memory).addr.toNat < s.cfg.memWords)
    (howns : (s.core k).cache.owns s.cfg.indexBits (s.slot k .memory).addr = false) :
    memoryStore k s = .next ((s.modCache k fun c => c).miss k .busRdX (s.slot k .memory).addr) := by
  simp only [memoryStore, checkingAddress_of_lt _ h, Cache.write, howns, Bool.false_eq_true, if_false]
  rfl

theorem memoryStoreConditional_of_scOk (h : (s.slot k .memory).scOk = true) : memoryStoreConditional k s = memoryStore k s :=
  if_pos h

theorem memoryStoreConditional_suppressed (h : (s.slot k .memory).scOk = false) :
    memoryStoreConditional k s = passOn .memory k s :=
  if_neg (by simp [h])

end

/-! ## Write-back -/

/-- Write-back of an instruction always answers: it records a write to the instruction's destination, or drains the core, or does nothing. -/
theorem writeBackAction_cases (i : Instr) (k : Nat) (s : State) :
    (∃ d v, destReg i = some d ∧ writeBackAction i k s = .next (s.recordWrite k d v)) ∨
    (destReg i = none ∧ i ≠ .halt ∧ writeBackAction i k s = .next s) ∨
    (i = .halt ∧ writeBackAction i k s = .next (s.modCore k fun c => { c with drained := true })) := by
  cases i
  case beq | bne | blt | bgt | ble | bge | sw => exact .inr (.inl ⟨rfl, by simp, rfl⟩)
  case halt => exact .inr (.inr ⟨rfl, rfl⟩)
  all_goals exact .inl ⟨_, _, rfl, rfl⟩

/-- Recording a write leaves the deferred write of the core, or leaves it as it was for registers 0 and 1 (R18, R19, R128). -/
theorem State.recordWrite_eq (s : State) (k : Nat) (d : Reg) (v : Word) :
    s.recordWrite k d v =
      if d = 0 ∨ d = 1 then s else s.modCore k fun c => { c with dw := some { reg := d, val := v } } := by
  by_cases h : d = 0 ∨ d = 1
  · rw [if_pos h, State.recordWrite, if_neg fun hne => h.elim hne.1 hne.2]
  · rw [if_neg h, State.recordWrite, if_pos (not_or.mp h)]

/-- Settles O30: the three cases of `writeBackAction_cases`. -/
theorem writeBackRecordsOnlyTheDestination : Obligations.WriteBackRecordsOnlyTheDestination := by
  intro i s k ht hk
  rw [exec_writeBack i ht]
  obtain ⟨d, v, hd, h⟩ | ⟨hd, -, h⟩ | ⟨rfl, h⟩ := writeBackAction_cases i k s
  · refine ⟨_, h, sameOutside_recordWrite k s d v, ?_⟩
    rw [hd, State.recordWrite_eq]
    by_cases h01 : d = 0 ∨ d = 1
    · simp only [if_pos h01, and_self]
    · simp only [if_neg h01, State.core_modCore_self _ _ _ hk, true_and]
      exact ⟨v, rfl⟩
  · exact ⟨s, h, by simp [SameOutside, SameShared], rfl, by rw [hd]⟩
  · exact ⟨_, h, sameOutside_modCore k s _, by rw [State.core_modCore_self _ _ _ hk],
      by rw [State.core_modCore_self _ _ _ hk]; rfl⟩

end Sys2Proof.Machine
end

section
/-! PROOFS. Everything a stage can do, said once: to its own core (`Core.Acts`), to the machine (`StageStep`), and how it can stop (`StageFault`).
The invariants of every step are derived from these. -/

namespace Sys2Proof.Machine

/-! ## What a stage does to its own core -/

/-- Stage `st` of a core hands the record `v` to the next stage (R114). -/
def Core.hand (c : Core) (st : Stage) (v : Slot) : Core := { c with slots := c.slots.set st.next v }

/-- A core frozen for its request `q`, with `n` misses counted (R99, R125, R143). -/
def Core.awaiting (c : Core) (q : Request) (n : Nat) : Core :=
  { c.freeze with cache := { c.cache with misses := n }, pend := some q }

/-- Everything a stage that is not stalled can do to its own core, but for the snoop of a grant; `ib` is INDEX_BITS. -/
inductive Core.Acts (ib : Nat) : Stage → Core → Core → Prop
  /-- Write-back applies the pending deferred write (R128). -/
  | applied (c : Core) : Core.Acts ib .writeBack c c.applyDeferred
  /-- Write-back then records the write of its instruction. -/
  | recorded (c : Core) (i : Instr) (d : Reg) (v : Word) (hi : c.slots.writeBack.content = .instr i) (hd : destReg i = some d)
      (h0 : d ≠ 0) (h1 : d ≠ 1) : Core.Acts ib .writeBack c { c.applyDeferred with dw := some { reg := d, val := v } }
  /-- Write-back of HALT drains the core (R109). -/
  | halted (c : Core) (hi : c.slots.writeBack.content = .instr .halt) :
      Core.Acts ib .writeBack c { c.applyDeferred with drained := true }
  /-- Execute or Memory hands its record on. -/
  | passed (c : Core) (st : Stage) (v : Slot) (hst : st = .execute ∨ st = .memory) (hv : v.content = (c.slots.get st).content) :
      Core.Acts ib st c (c.hand st v)
  /-- Execute of LL or SC writes an entry of the watch table (R103, R104). -/
  | watched (c : Core) (a : Word) (w : Watch) (v : Slot) (hv : v.content = c.slots.execute.content) :
      Core.Acts ib .execute c ({ c with watch := watchWrite c.watch a w }.hand .execute v)
  /-- A load that hits (R99). -/
  | loaded (c : Core) (v : Slot) (hv : v.content = c.slots.memory.content) :
      Core.Acts ib .memory c ({ c with cache := { c.cache with hits := c.cache.hits + 1 } }.hand .memory v)
  /-- A store into an own Modified line (R100). -/
  | stored (c : Core) (a d : Word) (v : Slot) (ha : c.cache.owns ib a = true) (hv : v.content = c.slots.memory.content) :
      Core.Acts ib .memory c ({ c with cache := (c.cache.write ib a d).2 }.hand .memory v)
  /-- A miss freezes the core and latches its request (R125, R143). -/
  | missed (c : Core) (q : Request) (n : Nat) : Core.Acts ib .memory c (c.awaiting q n)
  /-- A cycle of a hazard stall (R116, R120). -/
  | held (c : Core) : Core.Acts ib .decode c c.holdDecode
  /-- Decode hands its record on (R116). -/
  | decoded (c : Core) (v : Slot) (hv : v.content = c.slots.decode.content) :
      Core.Acts ib .decode c (c.releaseDecode.hand .decode v)
  /-- Decode of a branch that is taken, or of JAL (R89, R96). -/
  | redirected (c : Core) (a : Word) (v : Slot) (hv : v.content = c.slots.decode.content) :
      Core.Acts ib .decode c ({ c.releaseDecode with pc := a, branchTaken := true }.hand .decode v)
  /-- The branch flush (R122). -/
  | flushed (c : Core) : Core.Acts ib .fetch c c.flushFetch
  /-- Fetch of the instruction at `pc` (R115). -/
  | fetched (c : Core) (w : Word) (i : Instr) (hb : c.branchTaken = false) (hw : c.wordAtPc = some w)
      (hi : decodeWord w = .ok i) : Core.Acts ib .fetch c (c.fetched i)

/-! ## What a stage does to the machine -/

/-- Everything stage `st` of core k can do when it answers a next state. -/
inductive StageStep (k : Nat) : Stage → State → State → Prop
  /-- The machine has no such core (R142). -/
  | outside (st : Stage) (s : State) (hk : s.nCores ≤ k) : StageStep k st s s
  /-- The stage is stalled, or Fetch is held by a hazard stall (R26, R120). -/
  | idle (st : Stage) (s : State) (h : (s.core k).stalled.get st = true ∨ (st = .fetch ∧ (s.core k).hzHold = true)) :
      StageStep k st s s
  /-- The stage acts on its own core alone. -/
  | acted (st : Stage) (s : State) (c : Core) (hk : k < s.nCores) (hs : (s.core k).stalled.get st = false)
      (hc : Core.Acts s.cfg.indexBits st (s.core k) c) : StageStep k st s (s.setCore k c)
  /-- Execute of SC consumes the Watched entries of its address in every core's table (R104, R157). -/
  | consumed (s : State) (a : Word) (v : Slot) (hk : k < s.nCores) (hs : (s.core k).stalled.execute = false)
      (hv : v.content = (s.slot k .execute).content) : StageStep k .execute s ((s.consumeWatches k a).pass k .execute v)
  /-- A miss whose request is granted at once (R143). -/
  | granted (s : State) (q : Request) (n : Nat) (hk : k < s.nCores) (hs : (s.core k).stalled.memory = false)
      (ht : s.txn = none) : StageStep k .memory s ((s.setCore k ((s.core k).awaiting q n)).grant k)

/-- Every way stage `st` of core k can stop the machine with a fault (R167). -/
inductive StageFault (k : Nat) : Stage → State → Fault → Prop
  | registerRange (s : State) (w : WideRecord) (h : (s.slot k .decode).content = .corrupt (.registerRange w)) :
      StageFault k .decode s (.registerRange (s.slot k .decode).ipc ((s.modCore k Core.releaseDecode).stop k))
  | reg1Destination (s : State) (i : Instr) (h : (s.slot k .decode).content = .instr i) (hwf : i.wf = false) (ipc : Word) :
      StageFault k .decode s (.reg1Destination ipc ((s.modCore k Core.releaseDecode).stop k))
  | unrecognisedOpcode (s : State) (d : Defect) (h : (s.slot k .execute).content = .corrupt d) :
      StageFault k .execute s (.unrecognisedOpcode (s.slot k .execute).ipc (s.stop k))
  | fetchFault (s : State) (pc : Word) : StageFault k .fetch s (.fetchFault pc (s.stop k))
  | addressFault (s : State) (ipc addr : Word) : StageFault k .memory s (.addressFault ipc addr (s.stop k))
  | shiftFault (s : State) (ipc : Word) (n : Int) : StageFault k .execute s (.shiftFault ipc n (s.stop k))

/-- Everything stage `st` of core k can answer: a next state, a fault, or, in Fetch, the refusal of an illegal word (R168). -/
def StageOutcome (k : Nat) (st : Stage) (s : State) (r : Result) : Prop :=
  (∃ t, r = .next t ∧ StageStep k st s t) ∨ (∃ e, r = .fault e ∧ StageFault k st s e) ∨
    ∃ w x e, st = .fetch ∧ (s.core k).wordAtPc = some w ∧ decodeWord w = .error x ∧ r = .refused e

theorem StageOutcome.of_next {k : Nat} {st : Stage} {s t : State} {r : Result} (hr : r = .next t) (h : StageStep k st s t) :
    StageOutcome k st s r :=
  .inl ⟨t, hr, h⟩

theorem StageOutcome.of_fault {k : Nat} {st : Stage} {s : State} {r : Result} {e : Fault} (hr : r = .fault e)
    (h : StageFault k st s e) : StageOutcome k st s r :=
  .inr (.inl ⟨e, hr, h⟩)

/-- A stage that does not do anything passes its turn on. -/
theorem StageOutcome.of_idle {k : Nat} {st : Stage} {s : State} {r : Result} (hr : r = .next s)
    (h : (s.core k).stalled.get st = true ∨ (st = .fetch ∧ (s.core k).hzHold = true)) : StageOutcome k st s r :=
  .of_next hr (.idle st s h)

/-! ## Core k, where the machine has none -/

theorem State.slot_of_le {s : State} {k : Nat} (st : Stage) (h : s.nCores ≤ k) : (s.slot k st).content = .bubble := by
  rw [State.slot, State.core_of_le s k h]
  cases st <;> rfl

/-- A slot that holds more than a Bubble is a slot of a core. -/
theorem State.lt_of_content_ne {s : State} {k : Nat} {st : Stage} (h : (s.slot k st).content ≠ .bubble) : k < s.nCores :=
  Nat.lt_of_not_le fun hle => h (s.slot_of_le st hle)

/-- A stage that is not stalled changes its own core, where the machine has one. -/
theorem stageStep_modCore {s : State} {k : Nat} {st : Stage} {f : Core → Core} (hs : (s.core k).stalled.get st = false)
    (hf : Core.Acts s.cfg.indexBits st (s.core k) (f (s.core k))) : StageStep k st s (s.modCore k f) := by
  by_cases hk : k < s.nCores
  · exact .acted st s _ hk hs hf
  · have hle := Nat.le_of_not_lt hk
    rw [State.modCore_of_le s k f hle]
    exact .outside _ _ hle

/-! ## The misses -/

/-- A miss freezes the core and latches its request; the request is granted at once or waits (R143). -/
theorem State.miss_eq (s : State) (k n : Nat) (cmd : BusCmd) (a : Word) :
    (s.modCache k fun c => { c with misses := n }).miss k cmd a =
      if s.txn = none ∧ s.noOtherPending k = true then
        (s.setCore k ((s.core k).awaiting { cmd := cmd, addr := a } n)).grant k
      else s.setCore k ((s.core k).awaiting { cmd := cmd, addr := a } n) := by
  have hfrozen : (((s.modCache k fun c => { c with misses := n }).modCore k Core.freeze).modCore k fun c =>
      { c with pend := some { cmd := cmd, addr := a } }) =
      s.setCore k ((s.core k).awaiting { cmd := cmd, addr := a } n) := by
    simp only [State.modCache, State.modCore_modCore]
    rfl
  have hpending : (s.setCore k ((s.core k).awaiting { cmd := cmd, addr := a } n)).noOtherPending k = s.noOtherPending k := by
    simp only [State.noOtherPending, State.nCores_setCore]
    refine List.all_congr rfl fun j => ?_
    by_cases hj : j = k
    · simp [hj]
    · simp [hj]
  simp only [State.miss, State.busRequest, hfrozen, hpending, State.busBusy, State.txn_setCore, Bool.and_eq_true,
    Bool.not_eq_true', Option.isSome_eq_false_iff, Option.isNone_iff_eq_none]

theorem stageStep_miss {s : State} {k : Nat} (hk : k < s.nCores) (hs : (s.core k).stalled.memory = false) (n : Nat)
    (cmd : BusCmd) (a : Word) : StageStep k .memory s ((s.modCache k fun c => { c with misses := n }).miss k cmd a) := by
  rw [State.miss_eq s k n cmd a]
  split
  · next h => exact .granted s _ n hk hs h.1
  · exact .acted .memory s _ hk hs (.missed _ _ n)

/-! ## The five stages -/

theorem writeBackStage_outcome {k : Nat} {s : State} (ht : s.turn = .stage k .writeBack) :
    StageOutcome k .writeBack s (writeBackStage k s) := by
  unfold writeBackStage
  split
  · next hs => exact .of_idle rfl (.inl hs)
  · next hs =>
    rw [Bool.not_eq_true] at hs
    have happlied : StageStep k .writeBack s (s.applyDeferred k) := stageStep_modCore hs (.applied _)
    split
    · next i hi =>
      rw [exec_writeBack i (s := s.applyDeferred k) ht]
      obtain ⟨d, v, hd, h⟩ | ⟨-, -, h⟩ | ⟨rfl, h⟩ := writeBackAction_cases i k (s.applyDeferred k) <;> rw [h]
      · rw [State.recordWrite_eq]
        split
        · exact .of_next rfl happlied
        · next h01 =>
          rw [not_or] at h01
          rw [State.applyDeferred, State.modCore_modCore]
          exact .of_next rfl (stageStep_modCore hs (.recorded _ i d v hi hd h01.1 h01.2))
      · exact .of_next rfl happlied
      · rw [State.applyDeferred, State.modCore_modCore]
        exact .of_next rfl (stageStep_modCore hs (.halted _ hi))
    · exact .of_next rfl happlied
    · exact .of_next rfl happlied

/-- The record moves on as it is. -/
theorem stageStep_pass {s : State} {k : Nat} {st : Stage} {v : Slot} (hst : st = .execute ∨ st = .memory)
    (hs : (s.core k).stalled.get st = false) (hv : v.content = (s.slot k st).content) : StageStep k st s (s.pass k st v) :=
  stageStep_modCore (f := fun c => c.hand st v) hs (.passed _ st v hst hv)

theorem memoryLoad_outcome {k : Nat} {s : State} (hk : k < s.nCores) (hs : (s.core k).stalled.memory = false) :
    StageOutcome k .memory s (memoryLoad k s) := by
  by_cases ha : (s.slot k .memory).addr.toNat < s.cfg.memWords
  · cases hcopy : (s.core k).cache.hasCopy s.cfg.indexBits (s.slot k .memory).addr with
    | true =>
      rw [memoryLoad_hit ha hcopy, State.modCache, State.pass, State.setSlot, State.modCore_modCore]
      exact .of_next rfl (stageStep_modCore hs (.loaded _ _ rfl))
    | false => exact .of_next (memoryLoad_miss ha hcopy) (stageStep_miss hk hs _ _ _)
  · exact .of_fault (checkingAddress_fault _ (Nat.le_of_not_lt ha)) (.addressFault s _ _)

theorem memoryStore_outcome {k : Nat} {s : State} (hk : k < s.nCores) (hs : (s.core k).stalled.memory = false) :
    StageOutcome k .memory s (memoryStore k s) := by
  by_cases ha : (s.slot k .memory).addr.toNat < s.cfg.memWords
  · cases howns : (s.core k).cache.owns s.cfg.indexBits (s.slot k .memory).addr with
    | true =>
      rw [memoryStore_hit ha howns, State.modCache, State.pass, State.setSlot, State.modCore_modCore]
      exact .of_next rfl (stageStep_modCore hs (.stored _ _ _ _ howns rfl))
    | false => exact .of_next (memoryStore_miss ha howns) (stageStep_miss hk hs (s.core k).cache.misses _ _)
  · exact .of_fault (checkingAddress_fault _ (Nat.le_of_not_lt ha)) (.addressFault s _ _)

theorem memoryStage_outcome {k : Nat} {s : State} (ht : s.turn = .stage k .memory) :
    StageOutcome k .memory s (memoryStage k s) := by
  unfold memoryStage
  split
  · next hs => exact .of_idle rfl (.inl hs)
  · next hs =>
    rw [Bool.not_eq_true] at hs
    have hpass : StageOutcome k .memory s (passOn .memory k s) := .of_next rfl (stageStep_pass (.inr rfl) hs rfl)
    split
    · next i hi =>
      have hk : k < s.nCores := State.lt_of_content_ne (st := .memory) (by simp [hi])
      rw [exec_memory i ht]
      cases i
      case lw | ll => exact memoryLoad_outcome hk hs
      case sw => exact memoryStore_outcome hk hs
      case sc =>
        cases hok : (s.slot k .memory).scOk with
        | true =>
          rw [memoryAction, memoryStoreConditional_of_scOk hok]
          exact memoryStore_outcome hk hs
        | false =>
          rw [memoryAction, memoryStoreConditional_suppressed hok]
          exact hpass
      all_goals exact hpass
    · exact hpass
    · exact hpass

theorem executeStage_outcome {k : Nat} {s : State} (ht : s.turn = .stage k .execute) :
    StageOutcome k .execute s (executeStage k s) := by
  unfold executeStage
  split
  · next hs => exact .of_idle rfl (.inl hs)
  · next hs =>
    rw [Bool.not_eq_true] at hs
    split
    · next i hi =>
      have hk : k < s.nCores := State.lt_of_content_ne (st := .execute) (by simp [hi])
      rw [exec_execute i ht]
      obtain h | ⟨v, h | ⟨a, h⟩ | ⟨a, h⟩, hv⟩ := executeAction_cases i k s <;> rw [h]
      · exact .of_fault rfl (.shiftFault s _ _)
      · exact .of_next rfl (stageStep_pass (.inl rfl) hs hv)
      · rw [State.setWatch, State.pass, State.setSlot, State.modCore_modCore]
        exact .of_next rfl (stageStep_modCore hs (.watched _ a .watched v hv))
      · exact .of_next rfl (.consumed s a v hk hs hv)
    · exact .of_next rfl (stageStep_pass (.inl rfl) hs rfl)
    · next d hd => exact .of_fault rfl (.unrecognisedOpcode s d hd)

theorem decodeStage_outcome {k : Nat} {s : State} (ht : s.turn = .stage k .decode) :
    StageOutcome k .decode s (decodeStage k s) := by
  unfold decodeStage
  split
  · next hs => exact .of_idle rfl (.inl hs)
  · next hs =>
    rw [Bool.not_eq_true] at hs
    have hslot : (s.modCore k Core.releaseDecode).slot k .decode = s.slot k .decode := by
      by_cases hk : k < s.nCores
      · simp [State.slot, hk]
      · rw [State.modCore_of_le s k _ (Nat.le_of_not_lt hk)]
    have hpass : ∀ v : Slot, v.content = (s.slot k .decode).content →
        StageStep k .decode s ((s.modCore k Core.releaseDecode).pass k .decode v) := by
      intro v hv
      rw [State.pass, State.setSlot, State.modCore_modCore]
      exact stageStep_modCore hs (.decoded _ v hv)
    split
    · exact .of_next rfl (stageStep_modCore hs (.held _))
    · split
      · next i hi =>
        rw [exec_decode i (s := s.modCore k Core.releaseDecode) ht]
        obtain ⟨hwf, h⟩ | ⟨-, v, h | ⟨a, h⟩, hv⟩ := decodeAction_cases i k (s.modCore k Core.releaseDecode) <;> rw [h]
        · exact .of_fault rfl (.reg1Destination s i hi hwf _)
        · exact .of_next rfl (hpass v (hv.trans (by rw [hslot])))
        · rw [State.redirect, State.pass, State.setSlot, State.modCore_modCore, State.modCore_modCore]
          exact .of_next rfl (stageStep_modCore hs (.redirected _ a v (hv.trans (by rw [hslot]; rfl))))
      · exact .of_next rfl (hpass _ (by rw [hslot]))
      · exact .of_next rfl (hpass _ (by rw [hslot]))
      · next w hw => exact .of_fault rfl (.registerRange s w hw)

theorem fetchStage_outcome {k : Nat} {s : State} (ht : s.turn = .stage k .fetch) :
    StageOutcome k .fetch s (fetchStage k s) := by
  unfold fetchStage
  split
  · next hs => exact .of_idle rfl (.inl hs)
  · next hs =>
    rw [Bool.not_eq_true] at hs
    split
    · next hh => exact .of_idle rfl (.inr ⟨rfl, hh⟩)
    · split
      · exact .of_next rfl (stageStep_modCore hs (.flushed _))
      · next hb =>
        rw [Bool.not_eq_true] at hb
        split
        · exact .of_fault rfl (.fetchFault s _)
        · next w hw =>
          split
          · next i hi =>
            rw [exec_fetch_eq i ht]
            exact .of_next rfl (stageStep_modCore hs (.fetched _ w i hb hw hi))
          · next x hx => exact .inr (.inr ⟨w, x, _, rfl, hw, hx, rfl⟩)

/-- Everything a stage that has the turn can answer. -/
theorem stageAction_outcome {k : Nat} {st : Stage} {s : State} (ht : s.turn = .stage k st) :
    StageOutcome k st s (stageAction k st s) := by
  cases st with
  | writeBack => exact writeBackStage_outcome ht
  | memory => exact memoryStage_outcome ht
  | execute => exact executeStage_outcome ht
  | decode => exact decodeStage_outcome ht
  | fetch => exact fetchStage_outcome ht

theorem stageStep_of_next {k : Nat} {st : Stage} {s t : State} (ht : s.turn = .stage k st)
    (h : stageAction k st s = .next t) : StageStep k st s t := by
  obtain ⟨u, hu, hstep⟩ | ⟨e, he, -⟩ | ⟨w, x, e, -, -, -, he⟩ := stageAction_outcome ht
  · rw [h] at hu
    cases hu
    exact hstep
  · rw [h] at he
    cases he
  · rw [h] at he
    cases he

theorem stageFault_of_fault {k : Nat} {st : Stage} {s : State} {e : Fault} (ht : s.turn = .stage k st)
    (h : stageAction k st s = .fault e) : StageFault k st s e := by
  obtain ⟨u, hu, -⟩ | ⟨f, hf, hfault⟩ | ⟨w, x, f, -, -, -, hf⟩ := stageAction_outcome ht
  · rw [h] at hu
    cases hu
  · rw [h] at hf
    cases hf
    exact hfault
  · rw [h] at hf
    cases hf

end Sys2Proof.Machine
end

section
/-! PROOFS. The family of 51_cache.md, continued: the address split, the own Modified line and the write into it, the install; from them the laws of
install, read and write. -/

namespace Sys2Proof.Machine

/-! ## The address split (R132) -/

/-- Settles O33: tag and index are quotient and remainder of the address. -/
theorem addressSplitJoins : Obligations.AddressSplitJoins := by
  intro ib a
  refine ⟨?_, fun b => address_eq_of_split ib a b⟩
  rw [joinAddress, lineTag, lineIndex, BitVec.toNat_ushiftRight, Nat.shiftRight_eq_div_pow, Nat.div_add_mod']

/-- A cache with its N_LINES lines has every address's line. -/
theorem Cache.lineIndex_lt {c : Cache} {ib : Nat} (h : c.lines.length = 2 ^ ib) (a : Word) : lineIndex ib a < c.lines.length := by
  rw [h]
  exact Nat.mod_lt _ (Nat.two_pow_pos ib)

/-- Two addresses of one index select one line. -/
theorem Cache.line_congr (c : Cache) {ib : Nat} {a b : Word} (h : lineIndex ib b = lineIndex ib a) : c.line ib b = c.line ib a := by
  rw [Cache.line, Cache.line, h]

theorem Cache.hasCopy_iff_getBits (c : Cache) (ib : Nat) (a : Word) : c.hasCopy ib a = true ↔ c.getBits ib a ≠ none := by
  rw [Ne, Cache.getBits_eq_none_iff, Bool.not_eq_false]

/-- A line holds at most one address. -/
theorem Cache.lineIndex_ne_of_copies {c : Cache} {ib : Nat} {a b : Word} (ha : c.hasCopy ib a = true) (hb : c.hasCopy ib b = true)
    (hne : b ≠ a) : lineIndex ib b ≠ lineIndex ib a := by
  intro hidx
  rw [Cache.hasCopy_iff] at ha hb
  rw [c.line_congr hidx] at hb
  exact hne (address_eq_of_split ib b a (hb.2.symm.trans ha.2) hidx)

/-! ## The own Modified line (R135) -/

theorem Cache.owns_iff (c : Cache) (ib : Nat) (a : Word) : c.owns ib a = true ↔ c.getBits ib a = some .modified := by
  rw [Cache.getBits_eq, Cache.owns, Bool.and_eq_true, decide_eq_true_eq, decide_eq_true_eq]
  split
  · next h => simp [h.2]
  · next h =>
    refine ⟨fun ⟨hst, htag⟩ => absurd ⟨by simp [hst], htag⟩ h, fun hnone => by cases hnone⟩

theorem Cache.hasCopy_of_owns {c : Cache} {ib : Nat} {a : Word} (h : c.owns ib a = true) : c.hasCopy ib a = true := by
  rw [Cache.hasCopy_iff_getBits, (c.owns_iff ib a).mp h]
  simp

theorem Cache.write_of_owns {c : Cache} {ib : Nat} {a : Word} (d : Word) (h : c.owns ib a = true) :
    c.write ib a d = (true, { c.setLine ib a { c.line ib a with data := d } with hits := c.hits + 1 }) :=
  if_pos h

/-- A failed write changes nothing, no counter either (D17). -/
theorem Cache.write_of_not_owns {c : Cache} {ib : Nat} {a : Word} (d : Word) (h : c.owns ib a = false) :
    c.write ib a d = (false, c) :=
  if_neg (by simp [h])

/-- The lines after a write into an own Modified line: the selected line holds the word, every other line is as it was. -/
theorem Cache.line_write {c : Cache} {ib : Nat} {a : Word} (d b : Word) (h : c.owns ib a = true) :
    (c.write ib a d).2.line ib b = if lineIndex ib b = lineIndex ib a then { c.line ib a with data := d } else c.line ib b := by
  rw [Cache.write_of_owns d h, ← Cache.line_setLine c ib a b _ (Cache.lineIndex_lt_of_hasCopy (Cache.hasCopy_of_owns h))]
  rfl

/-- It leaves every address's answer. -/
theorem Cache.getBits_write {c : Cache} {ib : Nat} {a : Word} (d b : Word) (h : c.owns ib a = true) :
    (c.write ib a d).2.getBits ib b = c.getBits ib b := by
  simp only [Cache.getBits_eq, Cache.line_write d b h]
  split
  · next hidx => rw [c.line_congr hidx]
  · rfl

theorem Cache.getData_write_self {c : Cache} {ib : Nat} {a : Word} (d : Word) (h : c.owns ib a = true) :
    (c.write ib a d).2.getData ib a = d := by
  rw [Cache.getData, Cache.line_write d a h, if_pos rfl]

/-- The copies of other addresses keep their word: they are in other lines. -/
theorem Cache.getData_write_of_ne {c : Cache} {ib : Nat} {a b : Word} (d : Word) (h : c.owns ib a = true) (hne : b ≠ a)
    (hb : c.getBits ib b ≠ none) : (c.write ib a d).2.getData ib b = c.getData ib b := by
  have hidx := Cache.lineIndex_ne_of_copies (Cache.hasCopy_of_owns h) ((c.hasCopy_iff_getBits ib b).mpr hb) hne
  rw [Cache.getData, Cache.line_write d b h, if_neg hidx, Cache.getData]

/-! ## The install (R136) -/

section
variable {c : Cache} {ib : Nat} (a b d : Word) (w : Bool)

theorem Cache.line_install (h : c.lines.length = 2 ^ ib) :
    (c.install ib a d w).line ib b =
      if lineIndex ib b = lineIndex ib a then { state := if w then .modified else .shared, tag := lineTag ib a, data := d }
      else c.line ib b :=
  Cache.line_setLine c ib a b _ (Cache.lineIndex_lt h a)

theorem Cache.getBits_install_self (h : c.lines.length = 2 ^ ib) :
    (c.install ib a d w).getBits ib a = some (if w then .modified else .shared) := by
  rw [Cache.getBits_eq, Cache.line_install a a d w h, if_pos rfl, if_pos ⟨by cases w <;> simp, rfl⟩]

theorem Cache.getData_install_self (h : c.lines.length = 2 ^ ib) : (c.install ib a d w).getData ib a = d := by
  rw [Cache.getData, Cache.line_install a a d w h, if_pos rfl]

variable {a b}

/-- The address that the line held is displaced (D18). -/
theorem Cache.getBits_install_displaced (h : c.lines.length = 2 ^ ib) (hne : b ≠ a) (hidx : lineIndex ib b = lineIndex ib a) :
    (c.install ib a d w).getBits ib b = none := by
  refine Cache.getBits_of_tag_ne ?_
  rw [Cache.line_install a b d w h, if_pos hidx]
  exact fun htag => hne (address_eq_of_split ib b a htag.symm hidx)

theorem Cache.line_install_of_ne (h : c.lines.length = 2 ^ ib) (hidx : lineIndex ib b ≠ lineIndex ib a) :
    (c.install ib a d w).line ib b = c.line ib b := by
  rw [Cache.line_install a b d w h, if_neg hidx]

end

/-- Settles O36: the lines after an install and after a write. -/
theorem installReadWriteLaws : Obligations.InstallReadWriteLaws := by
  intro c ib a b d e w hlen
  have hcopy : ∀ w, (c.install ib a d w).hasCopy ib a = true := fun w => by
    rw [Cache.hasCopy_iff_getBits, Cache.getBits_install_self a d w hlen]
    simp
  have howns : (c.install ib a d true).owns ib a = true := by
    rw [Cache.owns_iff, Cache.getBits_install_self a d true hlen]
    rfl
  have hcopy' : ((c.install ib a d true).write ib a e).2.hasCopy ib a = true := by
    rw [Cache.hasCopy_iff_getBits, Cache.getBits_write e a howns, ← Cache.hasCopy_iff_getBits]
    exact hcopy true
  refine ⟨?_, ?_, ?_, fun hne hidx => Cache.getBits_install_displaced d w hlen hne hidx, fun hidx => ⟨?_, ?_⟩,
    c.lines_read ib a, fun hfail => ?_⟩
  · rw [Cache.read_eq, if_pos (hcopy w)]
    exact congrArg some (Cache.getData_install_self a d w hlen)
  · rw [Cache.write_of_owns e howns]
  · rw [Cache.read_eq, if_pos hcopy']
    exact congrArg some (Cache.getData_write_self e howns)
  · exact Cache.getBits_congr (Cache.line_install_of_ne d w hlen hidx)
  · exact congrArg Line.data (Cache.line_install_of_ne d w hlen hidx)
  · cases howns : c.owns ib a with
    | true =>
      rw [Cache.write_of_owns e howns] at hfail
      cases hfail
    | false => rw [Cache.write_of_not_owns e howns]

end Sys2Proof.Machine
end

section
/-! PROOFS. The family of 52_bus.md, continued: what a grant and a completion do to each core, to each copy of an address and to the shared fields,
and from it the statements about the grants, the bus tick and its events. -/

namespace Sys2Proof.Machine

/-! ## Cores and copies that the machine has not -/

theorem Core.hasCopy_reset (cfg : Config) (p : List Word) (ib : Nat) (a : Word) : (Core.reset cfg p).cache.hasCopy ib a = false := by
  have hline : (Core.reset cfg p).cache.line ib a = .invalid := by
    simp only [Cache.line, Core.reset, List.getD_eq_getElem?_getD, List.getElem?_replicate]
    split <;> rfl
  rw [← Bool.not_eq_true, Cache.hasCopy_iff, hline]
  exact fun h => h.1 rfl

/-- A core that the machine has not holds no copy (R142). -/
theorem State.bits_of_le {s : State} {k : Nat} (a : Word) (h : s.nCores ≤ k) : s.bits k a = none := by
  rw [State.bits, State.core_of_le s k h, Cache.getBits_eq_none_iff, Core.hasCopy_reset]

theorem State.lt_of_bits {s : State} {k : Nat} {a : Word} {m : Msi} (h : s.bits k a = some m) : k < s.nCores :=
  Nat.lt_of_not_le fun hle => by
    rw [State.bits_of_le a hle] at h
    cases h

/-- A core with a request pending is a core of the machine. -/
theorem State.lt_of_pend {s : State} {k : Nat} {q : Request} (h : (s.core k).pend = some q) : k < s.nCores :=
  Nat.lt_of_not_le fun hle => by
    rw [State.core_of_le s k hle] at h
    cases h

/-! ## The least holder (R145) -/

/-- Core j is the least core other than k with a copy of `a` in state `m`. -/
def State.LeastHolder (s : State) (k j : Nat) (a : Word) (m : Msi) : Prop :=
  j ≠ k ∧ s.bits j a = some m ∧ ∀ i, i < j → i ≠ k → s.bits i a ≠ some m

theorem State.otherHolders_eq_nil {s : State} {k : Nat} {a : Word} {m : Msi} :
    s.otherHolders k a m = [] ↔ ∀ j, j ≠ k → s.bits j a ≠ some m := by
  simp only [List.eq_nil_iff_forall_not_mem, State.mem_otherHolders, not_and]
  exact ⟨fun h j hj hb => h j (State.lt_of_bits hb) hj hb, fun h j _ hj => h j hj⟩

/-- The head of the holders is the least of them. -/
theorem State.leastHolder_of_cons {s : State} {k j : Nat} {l : List Nat} {a : Word} {m : Msi}
    (h : s.otherHolders k a m = j :: l) : s.LeastHolder k j a m := by
  have hmem : j ∈ s.otherHolders k a m := by simp [h]
  obtain ⟨-, hjk, hbits⟩ := (s.mem_otherHolders k j a m).mp hmem
  refine ⟨hjk, hbits, fun i hi hik hb => ?_⟩
  have hsorted : (s.otherHolders k a m).Pairwise (· < ·) := List.Pairwise.filter _ List.pairwise_lt_range
  have himem : i ∈ s.otherHolders k a m := (s.mem_otherHolders k i a m).mpr ⟨State.lt_of_bits hb, hik, hb⟩
  rw [h] at hsorted himem
  obtain rfl | htail := List.mem_cons.mp himem
  · exact Nat.lt_irrefl _ hi
  · exact Nat.lt_asymm hi ((List.pairwise_cons.mp hsorted).1 i htail)

theorem State.LeastHolder.unique {s : State} {k i j : Nat} {a : Word} {m : Msi} (hi : s.LeastHolder k i a m)
    (hj : s.LeastHolder k j a m) : i = j := by
  obtain ⟨hik, hib, himin⟩ := hi
  obtain ⟨hjk, hjb, hjmin⟩ := hj
  obtain hlt | heq | hgt := Nat.lt_trichotomy i j
  · exact absurd hib (hjmin i hlt hik)
  · exact heq
  · exact absurd hjb (himin j hgt hjk)

/-! ## What a snoop does -/

/-- Everything the snoop of a request of core k can do: the source of the data and the machine it leaves (R146, R147). -/
inductive Snoop (s : State) (k : Nat) : Request → Source → State → Prop
  | flushed (a : Word) (j : Nat) (hj : s.LeastHolder k j a .modified) :
      Snoop s k { cmd := .busRd, addr := a } (.flush (s.lineData j a)) (s.flushHolder j a (s.lineData j a))
  | supplied (a : Word) (j : Nat) (hm : ∀ i, i ≠ k → s.bits i a ≠ some .modified) (hj : s.LeastHolder k j a .shared) :
      Snoop s k { cmd := .busRd, addr := a } (.cacheSupply (s.lineData j a)) s
  | read (a : Word) (hm : ∀ i, i ≠ k → s.bits i a ≠ some .modified) (hs : ∀ i, i ≠ k → s.bits i a ≠ some .shared) :
      Snoop s k { cmd := .busRd, addr := a } .memRead (s.fetchFromMemory k a)
  | taken (a : Word) (j : Nat) (hj : s.LeastHolder k j a .modified ∨
        ((∀ i, i ≠ k → s.bits i a ≠ some .modified) ∧ s.LeastHolder k j a .shared)) :
      Snoop s k { cmd := .busRdX, addr := a } (.cacheSupply (s.lineData j a)) (s.invalidateOthers k a)
  | readExclusive (a : Word) (hm : ∀ i, i ≠ k → s.bits i a ≠ some .modified) (hs : ∀ i, i ≠ k → s.bits i a ≠ some .shared) :
      Snoop s k { cmd := .busRdX, addr := a } .memRead ((s.fetchFromMemory k a).invalidateOthers k a)

theorem State.snoop_cases (s : State) (k : Nat) (q : Request) : Snoop s k q (s.snoop k q).1 (s.snoop k q).2 := by
  obtain ⟨cmd, a⟩ := q
  cases cmd with
  | busRd =>
    simp only [State.snoop, State.grantBusRd]
    split
    · next hm => exact .flushed a _ (State.leastHolder_of_cons hm)
    · next hm hs => exact .supplied a _ (State.otherHolders_eq_nil.mp hm) (State.leastHolder_of_cons hs)
    · next hm hs => exact .read a (State.otherHolders_eq_nil.mp hm) (State.otherHolders_eq_nil.mp hs)
  | busRdX =>
    simp only [State.snoop, State.grantBusRdX]
    split
    · next hm => exact .taken a _ (.inl (State.leastHolder_of_cons hm))
    · next hm hs => exact .taken a _ (.inr ⟨State.otherHolders_eq_nil.mp hm, State.leastHolder_of_cons hs⟩)
    · next hm hs => exact .readExclusive a (State.otherHolders_eq_nil.mp hm) (State.otherHolders_eq_nil.mp hs)

/-- The transaction that a grant starts, with its source. -/
def State.grantedTxn (s : State) (k : Nat) (q : Request) : Txn :=
  { owner := k, cmd := q.cmd, addr := q.addr, source := (s.snoop k q).1 }

theorem State.grant_of_pend {s : State} {k : Nat} {q : Request} (h : (s.core k).pend = some q) :
    s.grant k = { (s.snoop k q).2 with txn := some (s.grantedTxn k q) }.busEvent .granted (s.grantedTxn k q) := by
  simp only [State.grant, h]
  rfl

theorem State.grant_of_no_pend {s : State} {k : Nat} (h : (s.core k).pend = none) : s.grant k = s := by
  simp only [State.grant, h]

/-! ## Each core under the bus's operations -/

@[simp] theorem State.core_beginMemOp (s : State) (kind : MemOpKind) (a : Word) (j : Nat) :
    (s.beginMemOp kind a).2.core j = s.core j := by
  rw [State.beginMemOp_frame]
  rfl

@[simp] theorem State.nCores_beginMemOp (s : State) (kind : MemOpKind) (a : Word) : (s.beginMemOp kind a).2.nCores = s.nCores := by
  rw [State.beginMemOp_frame]
  rfl

@[simp] theorem State.cfg_beginMemOp (s : State) (kind : MemOpKind) (a : Word) : (s.beginMemOp kind a).2.cfg = s.cfg := by
  rw [State.beginMemOp_frame]

/-- The read that a core's transaction makes is counted in its cache (R153). -/
theorem State.core_fetchFromMemory {s : State} {k : Nat} (a : Word) (hk : k < s.nCores) (j : Nat) :
    (s.fetchFromMemory k a).core j =
      if j = k then { s.core k with cache := { (s.core k).cache with memReads := (s.core k).cache.memReads + 1 } } else s.core j := by
  rw [State.fetchFromMemory, State.beginRead, State.modCache, State.core_modCore _ _ _ _ (by simpa using hk)]
  simp only [State.core_beginMemOp]

/-- The holder that flushes is demoted, and its Flush counted in its cache (R146, R153). -/
theorem State.core_flushHolder {s : State} {j : Nat} (a d : Word) (hj : j < s.nCores) (i : Nat) :
    (s.flushHolder j a d).core i =
      if i = j then
        { s.core j with
          cache :=
            { (s.core j).cache.setBits s.cfg.indexBits a .shared with
              memWrites := ((s.core j).cache.setBits s.cfg.indexBits a .shared).memWrites + 1 } }
      else s.core i := by
  rw [State.flushHolder, State.beginWrite, State.modCache, State.core_modCore _ _ _ _ (by simpa [State.modCache] using hj)]
  simp only [State.core_beginMemOp, State.modCache, State.core_modCore _ _ _ _ hj]
  split <;> simp

/-- Every core but the requester is made to drop its copy (R147). -/
theorem State.core_invalidateOthers (s : State) (k : Nat) (a : Word) (j : Nat) :
    (s.invalidateOthers k a).core j =
      if j = k then s.core j
      else { s.core j with cache := (s.core j).cache.setBits s.cfg.indexBits a .invalid } := by
  by_cases hj : j < s.nCores
  · have hlt : j < s.cores.length := hj
    simp [State.invalidateOthers, State.core, List.getD_eq_getElem?_getD, hlt]
  · have hle : s.nCores ≤ j := Nat.le_of_not_lt hj
    have hle' : (s.invalidateOthers k a).nCores ≤ j := by simpa [State.nCores, State.invalidateOthers] using hle
    rw [State.core_of_le _ j hle', State.core_of_le s j hle, State.cfg_invalidateOthers,
      Cache.setBits_of_no_copy .invalid (Core.hasCopy_reset ..), ite_self]

@[simp] theorem State.nCores_invalidateOthers (s : State) (k : Nat) (a : Word) : (s.invalidateOthers k a).nCores = s.nCores := by
  simp [State.nCores, State.invalidateOthers]

/-! ## What a grant leaves unchanged -/

/-- What the snoop of another core's request does to a cache: line states and the count of flushes, no tag and no word (R40, R153). -/
def Cache.Snooped (c c' : Cache) : Prop :=
  c' = { c with lines := c'.lines, memWrites := c'.memWrites } ∧
    c'.lines.map (fun l => (l.tag, l.data)) = c.lines.map (fun l => (l.tag, l.data))

theorem Cache.Snooped.refl (c : Cache) : Cache.Snooped c c := ⟨rfl, rfl⟩

theorem Cache.snooped_setBits (c : Cache) (ib : Nat) (a : Word) (m : Msi) (n : Nat) :
    Cache.Snooped c { c.setBits ib a m with memWrites := n } :=
  ⟨by rw [Cache.setBits_frame], c.map_tag_data_setBits ib a m⟩

theorem Cache.Snooped.length {c c' : Cache} (h : Cache.Snooped c c') : c'.lines.length = c.lines.length := by
  simpa using congrArg List.length h.2

/-- A snoop leaves every word of the cache. -/
theorem Cache.Snooped.getData {c c' : Cache} (h : Cache.Snooped c c') (ib : Nat) (a : Word) : c'.getData ib a = c.getData ib a := by
  have hmap := congrArg (fun l => ((l[lineIndex ib a]?).getD (0, 0)).2) h.2
  simp only [List.getElem?_map] at hmap
  simp only [Cache.getData, Cache.line, List.getD_eq_getElem?_getD]
  cases h1 : c.lines[lineIndex ib a]? <;> cases h2 : c'.lines[lineIndex ib a]? <;>
    simp only [h1, h2, Option.map_none, Option.map_some, Option.getD_none, Option.getD_some] at hmap ⊢ <;> exact hmap

/-- What a grant to core k does to core j: its own cache may count a memory read, another core's is snooped. -/
def GrantKeeps (k j : Nat) (c c' : Core) : Prop :=
  (j = k → ∃ n, c' = { c with cache := { c.cache with memReads := n } }) ∧
  (j ≠ k → ∃ x, Cache.Snooped c.cache x ∧ c' = { c with cache := x })

theorem GrantKeeps.refl (k j : Nat) (c : Core) : GrantKeeps k j c c :=
  ⟨fun _ => ⟨c.cache.memReads, rfl⟩, fun _ => ⟨c.cache, Cache.Snooped.refl _, rfl⟩⟩

theorem grantKeeps_fetchFromMemory {s : State} {k : Nat} (a : Word) (hk : k < s.nCores) (j : Nat) :
    GrantKeeps k j (s.core j) ((s.fetchFromMemory k a).core j) := by
  rw [State.core_fetchFromMemory a hk]
  split
  · next h => exact ⟨fun _ => ⟨_, by rw [h]⟩, fun hne => absurd h hne⟩
  · exact .refl k j _

theorem grantKeeps_invalidateOthers (s : State) (k : Nat) (a : Word) (j : Nat) :
    GrantKeeps k j (s.core j) ((s.invalidateOthers k a).core j) := by
  rw [State.core_invalidateOthers]
  split
  · exact .refl k j _
  · next h => exact ⟨fun heq => absurd heq h, fun _ => ⟨_, Cache.snooped_setBits _ _ _ _ _, rfl⟩⟩

theorem GrantKeeps.trans {k j : Nat} {c c' c'' : Core} (h : GrantKeeps k j c c') (h' : GrantKeeps k j c' c'') :
    GrantKeeps k j c c'' := by
  constructor
  · intro hj
    obtain ⟨n, rfl⟩ := h.1 hj
    obtain ⟨n', rfl⟩ := h'.1 hj
    exact ⟨n', rfl⟩
  · intro hj
    obtain ⟨x, hx, rfl⟩ := h.2 hj
    obtain ⟨x', hx', rfl⟩ := h'.2 hj
    refine ⟨x', ⟨?_, hx'.2.trans hx.2⟩, rfl⟩
    rw [hx'.1, hx.1]

theorem Snoop.keeps {s t : State} {k : Nat} {q : Request} {src : Source} (h : Snoop s k q src t) (hk : k < s.nCores) (j : Nat) :
    GrantKeeps k j (s.core j) (t.core j) := by
  cases h with
  | supplied => exact .refl k j _
  | read a => exact grantKeeps_fetchFromMemory a hk j
  | taken a => exact grantKeeps_invalidateOthers s k a j
  | readExclusive a => exact (grantKeeps_fetchFromMemory a hk j).trans (grantKeeps_invalidateOthers _ k a j)
  | flushed a i hi =>
    rw [State.core_flushHolder a _ (State.lt_of_bits hi.2.1)]
    split
    · next hji =>
      subst hji
      exact ⟨fun hjk => absurd hjk hi.1, fun _ => ⟨_, Cache.snooped_setBits _ _ _ _ _, rfl⟩⟩
    · exact .refl k j _

/-- A snoop changes nothing outside the cores but the memory's operation. -/
def SnoopFrame (s t : State) : Prop := SameBesideBus s t ∧ t.txn = s.txn ∧ t.events = s.events

theorem SnoopFrame.trans {s t u : State} (h : SnoopFrame s t) (h' : SnoopFrame t u) : SnoopFrame s u := by
  obtain ⟨⟨hcfg, hmem, hstaged, hcycle, hturn, hcores⟩, htxn, hevents⟩ := h
  obtain ⟨⟨hcfg', hmem', hstaged', hcycle', hturn', hcores'⟩, htxn', hevents'⟩ := h'
  exact ⟨⟨hcfg'.trans hcfg, hmem'.trans hmem, hstaged'.trans hstaged, hcycle'.trans hcycle, hturn'.trans hturn,
    hcores'.trans hcores⟩, htxn'.trans htxn, hevents'.trans hevents⟩

theorem snoopFrame_modCore (s : State) (k : Nat) (f : Core → Core) : SnoopFrame s (s.modCore k f) := by
  simp [SnoopFrame, SameBesideBus]

theorem snoopFrame_beginMemOp (s : State) (kind : MemOpKind) (a : Word) : SnoopFrame s (s.beginMemOp kind a).2 := by
  rw [State.beginMemOp_frame]
  exact ⟨⟨rfl, rfl, rfl, rfl, rfl, rfl⟩, rfl, rfl⟩

theorem snoopFrame_fetchFromMemory (s : State) (k : Nat) (a : Word) : SnoopFrame s (s.fetchFromMemory k a) :=
  (snoopFrame_beginMemOp s .read a).trans (snoopFrame_modCore _ k _)

theorem snoopFrame_invalidateOthers (s : State) (k : Nat) (a : Word) : SnoopFrame s (s.invalidateOthers k a) := by
  simp [SnoopFrame, SameBesideBus]

theorem Snoop.frame {s t : State} {k : Nat} {q : Request} {src : Source} (h : Snoop s k q src t) : SnoopFrame s t := by
  cases h with
  | supplied => exact ⟨⟨rfl, rfl, rfl, rfl, rfl, rfl⟩, rfl, rfl⟩
  | read a => exact snoopFrame_fetchFromMemory s k a
  | taken a => exact snoopFrame_invalidateOthers s k a
  | readExclusive a => exact (snoopFrame_fetchFromMemory s k a).trans (snoopFrame_invalidateOthers _ k a)
  | flushed a j => exact ((snoopFrame_modCore s j _).trans (snoopFrame_beginMemOp _ _ a)).trans (snoopFrame_modCore _ j _)

/-- What a grant does to each core. -/
theorem State.grant_keeps (s : State) (k j : Nat) : GrantKeeps k j (s.core j) ((s.grant k).core j) := by
  cases hq : (s.core k).pend with
  | none => rw [State.grant_of_no_pend hq]; exact .refl k j _
  | some q =>
    rw [State.grant_of_pend hq]
    exact (s.snoop_cases k q).keeps (State.lt_of_pend hq) j

theorem State.grant_sameBesideBus (s : State) (k : Nat) : SameBesideBus s (s.grant k) := by
  cases hq : (s.core k).pend with
  | none =>
    rw [State.grant_of_no_pend hq]
    simp [SameBesideBus]
  | some q =>
    rw [State.grant_of_pend hq]
    exact (s.snoop_cases k q).frame.1

/-! ## The copies of an address after a snoop -/

theorem State.hasCopy_of_bits {s : State} {j : Nat} {a : Word} {m : Msi} (h : s.bits j a = some m) :
    (s.core j).cache.hasCopy s.cfg.indexBits a = true := by
  rw [Cache.hasCopy_iff_getBits]
  exact fun hnone => by
    rw [State.bits, hnone] at h
    cases h

/-- What `setBits` leaves of every address's answer, where the address has a copy or the new state is Invalid. -/
theorem Cache.getBits_setBits (c : Cache) (ib : Nat) (a b : Word) (m : Msi) (h : c.hasCopy ib a = true ∨ m = .invalid) :
    (c.setBits ib a m).getBits ib b = if b = a then (if m = .invalid then none else some m) else c.getBits ib b := by
  by_cases hb : b = a
  · subst hb
    rw [if_pos rfl]
    cases hcopy : c.hasCopy ib b with
    | true => exact Cache.getBits_setBits_self m hcopy
    | false =>
      obtain h | rfl := h
      · rw [hcopy] at h
        cases h
      · rw [Cache.setBits_of_no_copy _ hcopy, if_pos rfl, Cache.getBits_eq_none_iff, hcopy]
  · rw [if_neg hb, Cache.getBits_setBits_of_ne c ib m hb]

theorem State.bits_fetchFromMemory {s : State} {k : Nat} (a : Word) (hk : k < s.nCores) (j : Nat) (b : Word) :
    (s.fetchFromMemory k a).bits j b = s.bits j b := by
  rw [State.bits, State.core_fetchFromMemory a hk, (snoopFrame_fetchFromMemory s k a).1.1]
  split
  · next h =>
    subst h
    rfl
  · rfl

/-- The holder that flushes holds the address Shared; no other copy changes (R146). -/
theorem State.bits_flushHolder {s : State} {i : Nat} {a : Word} {m : Msi} (d : Word) (hi : s.bits i a = some m) (j : Nat) (b : Word) :
    (s.flushHolder i a d).bits j b = if j = i ∧ b = a then some .shared else s.bits j b := by
  have hcfg : (s.flushHolder i a d).cfg = s.cfg :=
    (((snoopFrame_modCore s i _).trans (snoopFrame_beginMemOp _ _ a)).trans (snoopFrame_modCore _ i _)).1.1
  rw [State.bits, State.core_flushHolder a d (State.lt_of_bits hi), hcfg]
  by_cases hj : j = i
  · subst hj
    rw [if_pos rfl]
    refine (Cache.getBits_setBits _ _ a b .shared (.inl (State.hasCopy_of_bits hi))).trans ?_
    simp only [true_and]
    rfl
  · simp only [hj, false_and, if_false]
    rfl

/-- Only the requester still holds the address (R147). -/
theorem State.bits_invalidateOthers (s : State) (k : Nat) (a : Word) (j : Nat) (b : Word) :
    (s.invalidateOthers k a).bits j b = if j ≠ k ∧ b = a then none else s.bits j b := by
  rw [State.bits, State.core_invalidateOthers, State.cfg_invalidateOthers]
  by_cases hj : j = k
  · rw [if_pos hj, if_neg fun h => h.1 hj]
    rfl
  · rw [if_neg hj]
    refine (Cache.getBits_setBits _ _ a b .invalid (.inr rfl)).trans ?_
    simp only [hj, ne_eq, not_false_eq_true, true_and, if_true]
    rfl

theorem GrantKeeps.getData {k j : Nat} {c c' : Core} (h : GrantKeeps k j c c') (ib : Nat) (a : Word) :
    c'.cache.getData ib a = c.cache.getData ib a := by
  by_cases hj : j = k
  · obtain ⟨n, rfl⟩ := h.1 hj
    rfl
  · obtain ⟨x, hx, rfl⟩ := h.2 hj
    exact hx.getData ib a

/-- A grant changes no word of any cache. -/
theorem State.lineData_grant (s : State) (k j : Nat) (a : Word) : (s.grant k).lineData j a = s.lineData j a := by
  rw [State.lineData, (s.grant_sameBesideBus k).1]
  exact (s.grant_keeps k j).getData _ a

theorem GrantKeeps.length {k j : Nat} {c c' : Core} (h : GrantKeeps k j c c') : c'.cache.lines.length = c.cache.lines.length := by
  by_cases hj : j = k
  · obtain ⟨n, rfl⟩ := h.1 hj
    rfl
  · obtain ⟨x, hx, rfl⟩ := h.2 hj
    exact hx.length

/-! ## The memory's operation after a snoop -/

theorem State.memop_beginMemOp {s : State} (kind : MemOpKind) (a : Word) (h : s.memop = none) :
    (s.beginMemOp kind a).2.memop = some { kind := kind, addr := a, remaining := s.cfg.memLatency } := by
  rw [s.beginMemOp_idle kind a h]

theorem State.memop_fetchFromMemory {s : State} (k : Nat) (a : Word) (h : s.memop = none) :
    (s.fetchFromMemory k a).memop = some { kind := .read, addr := a, remaining := s.cfg.memLatency } :=
  State.memop_beginMemOp .read a h

theorem State.memop_flushHolder {s : State} (j : Nat) (a d : Word) (h : s.memop = none) :
    (s.flushHolder j a d).memop = some { kind := .write d, addr := a, remaining := s.cfg.memLatency } :=
  State.memop_beginMemOp (s := s.modCache j _) (.write d) a h

/-! ## Which snoop a request meets -/

/-- Where a core other than k holds `a` in state `m`, the list of the holders begins with the least of them. -/
theorem State.otherHolders_of_least {s : State} {k j : Nat} {a : Word} {m : Msi} (h : s.LeastHolder k j a m) :
    ∃ l, s.otherHolders k a m = j :: l := by
  cases hl : s.otherHolders k a m with
  | nil => exact absurd h.2.1 (State.otherHolders_eq_nil.mp hl j h.1)
  | cons i l => exact ⟨l, by rw [(State.leastHolder_of_cons hl).unique h]⟩

section
variable {s : State} {k j : Nat} {a : Word}

theorem State.snoop_busRd_modified (h : s.LeastHolder k j a .modified) :
    s.snoop k { cmd := .busRd, addr := a } = (.flush (s.lineData j a), s.flushHolder j a (s.lineData j a)) := by
  obtain ⟨l, hl⟩ := State.otherHolders_of_least h
  simp only [State.snoop, State.grantBusRd, hl]

theorem State.snoop_busRd_shared (hm : ∀ i, i ≠ k → s.bits i a ≠ some .modified) (h : s.LeastHolder k j a .shared) :
    s.snoop k { cmd := .busRd, addr := a } = (.cacheSupply (s.lineData j a), s) := by
  obtain ⟨l, hl⟩ := State.otherHolders_of_least h
  simp only [State.snoop, State.grantBusRd, hl, State.otherHolders_eq_nil.mpr hm]

theorem State.snoop_busRd_memory (hm : ∀ i, i ≠ k → s.bits i a ≠ some .modified) (hs : ∀ i, i ≠ k → s.bits i a ≠ some .shared) :
    s.snoop k { cmd := .busRd, addr := a } = (.memRead, s.fetchFromMemory k a) := by
  simp only [State.snoop, State.grantBusRd, State.otherHolders_eq_nil.mpr hm, State.otherHolders_eq_nil.mpr hs]

theorem State.snoop_busRdX_modified (h : s.LeastHolder k j a .modified) :
    s.snoop k { cmd := .busRdX, addr := a } = (.cacheSupply (s.lineData j a), s.invalidateOthers k a) := by
  obtain ⟨l, hl⟩ := State.otherHolders_of_least h
  simp only [State.snoop, State.grantBusRdX, hl]

theorem State.snoop_busRdX_shared (hm : ∀ i, i ≠ k → s.bits i a ≠ some .modified) (h : s.LeastHolder k j a .shared) :
    s.snoop k { cmd := .busRdX, addr := a } = (.cacheSupply (s.lineData j a), s.invalidateOthers k a) := by
  obtain ⟨l, hl⟩ := State.otherHolders_of_least h
  simp only [State.snoop, State.grantBusRdX, hl, State.otherHolders_eq_nil.mpr hm]

theorem State.snoop_busRdX_memory (hm : ∀ i, i ≠ k → s.bits i a ≠ some .modified) (hs : ∀ i, i ≠ k → s.bits i a ≠ some .shared) :
    s.snoop k { cmd := .busRdX, addr := a } = (.memRead, (s.fetchFromMemory k a).invalidateOthers k a) := by
  simp only [State.snoop, State.grantBusRdX, State.otherHolders_eq_nil.mpr hm, State.otherHolders_eq_nil.mpr hs]

/-- A grant in terms of its snoop. -/
theorem State.grant_of_snoop {q : Request} {src : Source} {t : State} (hq : (s.core k).pend = some q) (h : s.snoop k q = (src, t)) :
    s.grant k =
      { t with txn := some { owner := k, cmd := q.cmd, addr := q.addr, source := src } }.busEvent .granted
        { owner := k, cmd := q.cmd, addr := q.addr, source := src } := by
  rw [State.grant_of_pend hq, State.grantedTxn, h]

/-- Where Modified copies are exclusive a Modified holder is the least. -/
theorem State.Exclusive.leastHolder (hex : s.Exclusive) (hj : j ≠ k) (h : s.bits j a = some .modified) :
    s.LeastHolder k j a .modified := by
  refine ⟨hj, h, fun i hi _ hb => ?_⟩
  rw [hex j i a (Nat.ne_of_gt hi) h] at hb
  cases hb

end

/-! ## Completion (R151) -/

theorem State.core_complete {s : State} {x : Txn} (d : Word) (h : x.owner < s.nCores) (j : Nat) :
    (s.complete x d).core j = if j = x.owner then (s.core x.owner).serve s.cfg.indexBits x d else s.core j :=
  State.core_modCore s j x.owner (fun c => c.serve s.cfg.indexBits x d) h

theorem State.core_complete_of_le {s : State} {x : Txn} (d : Word) (h : s.nCores ≤ x.owner) (j : Nat) :
    (s.complete x d).core j = s.core j := by
  change (s.modCore x.owner fun c => c.serve s.cfg.indexBits x d).core j = s.core j
  rw [State.modCore_of_le _ _ _ h]

@[simp] theorem State.nCores_complete (s : State) (x : Txn) (d : Word) : (s.complete x d).nCores = s.nCores :=
  s.nCores_modCore x.owner fun c => c.serve s.cfg.indexBits x d

section
variable {s : State} {x : Txn} {d : Word}

/-- The completed address is installed, Shared after a BusRd and Modified after a BusRdX (R151). -/
theorem State.bits_complete_self (h : x.owner < s.nCores) (hlen : (s.core x.owner).cache.lines.length = s.cfg.nLines) :
    (s.complete x d).bits x.owner x.addr = some (if x.cmd = .busRdX then .modified else .shared) := by
  change ((s.complete x d).core x.owner).cache.getBits s.cfg.indexBits x.addr = _
  rw [State.core_complete d h, if_pos rfl]
  refine (Cache.getBits_install_self x.addr d _ hlen).trans ?_
  simp only [decide_eq_true_eq]

theorem State.lineData_complete_self (h : x.owner < s.nCores) (hlen : (s.core x.owner).cache.lines.length = s.cfg.nLines) :
    (s.complete x d).lineData x.owner x.addr = d := by
  change ((s.complete x d).core x.owner).cache.getData s.cfg.indexBits x.addr = _
  rw [State.core_complete d h, if_pos rfl]
  exact Cache.getData_install_self x.addr d _ hlen

theorem State.line_complete_of_ne (h : x.owner < s.nCores) (hlen : (s.core x.owner).cache.lines.length = s.cfg.nLines) {b : Word}
    (hidx : lineIndex s.cfg.indexBits b ≠ lineIndex s.cfg.indexBits x.addr) :
    ((s.complete x d).core x.owner).cache.line s.cfg.indexBits b = (s.core x.owner).cache.line s.cfg.indexBits b := by
  rw [State.core_complete d h, if_pos rfl]
  exact Cache.line_install_of_ne d _ hlen hidx

end

theorem State.Shaped.length_lines {s : State} (hs : s.Shaped) {k : Nat} (hk : k < s.nCores) :
    (s.core k).cache.lines.length = s.cfg.nLines :=
  (hs.2 _ ((s.mem_cores _).mpr ⟨k, hk, rfl⟩)).2

/-- The transaction that a grant starts is completed by the requester's line. -/
theorem State.bits_grant_complete {s : State} {k : Nat} {q : Request} {x : Txn} {d : Word} (hs : s.Shaped)
    (hq : (s.core k).pend = some q) (hx : (s.grant k).txn = some x) :
    ((s.grant k).complete x d).bits k q.addr = some (if q.cmd = .busRdX then .modified else .shared) := by
  have hk := State.lt_of_pend hq
  have hframe := s.grant_sameBesideBus k
  have hown : x = s.grantedTxn k q := by
    rw [State.grant_of_pend hq] at hx
    exact (Option.some.inj hx).symm
  subst hown
  refine State.bits_complete_self (s := s.grant k) (x := s.grantedTxn k q) ?_ ?_
  · rw [hframe.2.2.2.2.2]
    exact hk
  · rw [hframe.1]
    exact (s.grant_keeps k k).length.trans (hs.length_lines hk)

/-! ## The grants -/

/-- `setBits` changes the one line state, in a core whose cache has counted what it will. -/
theorem onlyLineState_setBits (c : Core) (ib : Nat) (a : Word) (m : Msi) (h : c.cache.hasCopy ib a = true ∨ m = .invalid) :
    OnlyLineState ib a (if m = .invalid then none else some m) c { c with cache := c.cache.setBits ib a m } := by
  refine ⟨?_, c.cache.map_tag_data_setBits ib a m, ?_, fun b hb => ?_⟩
  · rw [← Cache.setBits_frame]
  · rw [Cache.getBits_setBits _ _ _ _ _ h, if_pos rfl]
  · rw [Cache.getBits_setBits _ _ _ _ _ h, if_neg hb]

/-- Where no copy is Modified or Shared there is none. -/
theorem State.bits_ne_of_none {s : State} {k : Nat} {a : Word} (h : ∀ j, j < s.nCores → j ≠ k → s.bits j a = none) (m : Msi) (j : Nat)
    (hj : j ≠ k) : s.bits j a ≠ some m := by
  intro hb
  rw [h j (State.lt_of_bits hb) hj] at hb
  cases hb

/-- Settles O37: the three snoops of a BusRd. -/
theorem busRdGrant : Obligations.BusRdGrant := by
  intro s k a hk hq hidle hex
  refine ⟨?flushed, fun hm => ?clean, s.grant_sameBesideBus k, fun x d hs hx => State.bits_grant_complete hs hq hx⟩
  case flushed =>
    intro j hj hjk hb
    have hgrant := State.grant_of_snoop hq (State.snoop_busRd_modified (hex.leastHolder hjk hb))
    have hcore := State.core_flushHolder (s := s) a (s.lineData j a) hj
    refine ⟨?_, by rw [hgrant]; rfl, ?_, ?_, fun i hi => ?_⟩ <;> rw [hgrant]
    · exact (State.bits_flushHolder _ hb j a).trans (if_pos ⟨rfl, rfl⟩)
    · exact State.memop_flushHolder j a _ hidle
    · have hline := onlyLineState_setBits
        { s.core j with cache := { (s.core j).cache with memWrites := (s.core j).cache.memWrites + 1 } } s.cfg.indexBits a .shared
        (.inl (State.hasCopy_of_bits hb))
      have hcommutes : { (s.core j).cache with memWrites := (s.core j).cache.memWrites + 1 }.setBits s.cfg.indexBits a .shared =
          { (s.core j).cache.setBits s.cfg.indexBits a .shared with
            memWrites := ((s.core j).cache.setBits s.cfg.indexBits a .shared).memWrites + 1 } := by
        rw [Cache.setBits_of_hasCopy _ (State.hasCopy_of_bits hb)]
        exact if_pos (State.hasCopy_of_bits hb)
      rw [hcommutes] at hline
      have hj := hcore j
      rw [if_pos rfl] at hj
      exact hj ▸ hline
    · exact (hcore i).trans (if_neg hi)
  case clean =>
    have hm' : ∀ i, i ≠ k → s.bits i a ≠ some .modified := fun i hi hb => hm i (State.lt_of_bits hb) hi hb
    refine ⟨fun j hj hjk hb hmin => ?_, fun hnone => ?_⟩
    · rw [State.grant_of_snoop hq (State.snoop_busRd_shared hm' ⟨hjk, hb, hmin⟩)]
      exact ⟨rfl, hidle, rfl⟩
    · rw [State.grant_of_snoop hq (State.snoop_busRd_memory hm' (State.bits_ne_of_none hnone .shared))]
      exact ⟨rfl, State.memop_fetchFromMemory k a hidle, (State.core_fetchFromMemory a hk k).trans (if_pos rfl),
        fun i hi => (State.core_fetchFromMemory a hk i).trans (if_neg hi)⟩

/-- Settles O38: the snoops of a BusRdX, each with `invalidateOthers`. -/
theorem busRdXGrant : Obligations.BusRdXGrant := by
  intro s k a hk hq hidle hex
  have hinvalid : ∀ u : State, u.cfg = s.cfg → (∀ j, j ≠ k → u.core j = s.core j) → ∀ j, j ≠ k →
      OnlyLineState s.cfg.indexBits a none (s.core j) ((u.invalidateOthers k a).core j) := by
    intro u hcfg hcore j hj
    rw [State.core_invalidateOthers, if_neg hj, hcfg, hcore j hj]
    exact onlyLineState_setBits (s.core j) s.cfg.indexBits a .invalid (.inr rfl)
  have hself : ∀ u : State, (u.invalidateOthers k a).core k = u.core k := fun u => by
    rw [State.core_invalidateOthers, if_pos rfl]
  refine ⟨?others, fun j _ hjk hb => ?modified, fun hm => ?clean, s.grant_sameBesideBus k,
    fun x d hs hx => State.bits_grant_complete hs hq hx⟩
  case others =>
    intro j hj
    have hsnoop := s.snoop_cases k { cmd := .busRdX, addr := a }
    have hgrant := State.grant_of_snoop hq (s.snoop k { cmd := .busRdX, addr := a }).eta.symm
    generalize s.snoop k { cmd := .busRdX, addr := a } = r at hsnoop hgrant
    obtain ⟨src, t⟩ := r
    rw [hgrant]
    cases hsnoop with
    | taken => exact hinvalid s rfl (fun _ _ => rfl) j hj
    | readExclusive =>
      exact hinvalid _ (snoopFrame_fetchFromMemory s k a).1.1
        (fun i hi => (State.core_fetchFromMemory a hk i).trans (if_neg hi)) j hj
  case modified =>
    rw [State.grant_of_snoop hq (State.snoop_busRdX_modified (hex.leastHolder hjk hb))]
    exact ⟨rfl, hidle, hself s⟩
  case clean =>
    have hm' : ∀ i, i ≠ k → s.bits i a ≠ some .modified := fun i hi hb => hm i (State.lt_of_bits hb) hi hb
    refine ⟨fun j hj hjk hb hmin => ?_, fun hnone => ?_⟩
    · rw [State.grant_of_snoop hq (State.snoop_busRdX_shared hm' ⟨hjk, hb, hmin⟩)]
      exact ⟨rfl, hidle, hself s⟩
    · rw [State.grant_of_snoop hq (State.snoop_busRdX_memory hm' (State.bits_ne_of_none hnone .shared))]
      exact ⟨rfl, State.memop_fetchFromMemory k a hidle,
        (hself _).trans ((State.core_fetchFromMemory a hk k).trans (if_pos rfl))⟩

/-! ## The bus tick -/

/-- A transaction whose data is there completes (R144). -/
theorem State.busTick_of_ready {s : State} {r : MemResult} {x : Txn} {d : Word} (hx : s.txn = some x)
    (h : x.source = .cacheSupply d ∨ (x.source = .memRead ∧ r = .readCompleted ∧ d = s.memStaged) ∨
      (x.source = .flush d ∧ r = .writeCompleted)) : s.busTick r = s.complete x d := by
  obtain h | ⟨h, rfl, rfl⟩ | ⟨h, rfl⟩ := h <;> simp only [State.busTick, hx, h]

/-- One that waits for the memory is left alone. -/
theorem State.busTick_of_waiting {s : State} {r : MemResult} {x : Txn} (hx : s.txn = some x)
    (h : (x.source = .memRead ∧ r ≠ .readCompleted) ∨ ((∃ d, x.source = .flush d) ∧ r ≠ .writeCompleted)) :
    s.busTick r = s := by
  obtain ⟨h, hr⟩ | ⟨⟨d, h⟩, hr⟩ := h <;> cases r <;> simp only [State.busTick, hx, h] <;> exact absurd rfl hr

theorem State.leastPending_eq_none {s : State} : s.leastPending = none ↔ ∀ j, j < s.nCores → (s.core j).pend = none := by
  simp [State.leastPending]

theorem State.leastPending_eq_some {s : State} {j : Nat} :
    s.leastPending = some j ↔
      j < s.nCores ∧ (s.core j).pend ≠ none ∧ ∀ i, i < j → (s.core i).pend = none := by
  simp only [State.leastPending, List.find?_range_eq_some, List.mem_range, Bool.not_eq_true', Option.isSome_eq_false_iff,
    Option.isNone_iff_eq_none, Option.isSome_iff_ne_none]
  tauto

/-- Settles O39: `busTick` completes, waits, grants or rests. -/
theorem busTickCompletesOrGrants : Obligations.BusTickCompletesOrGrants := by
  intro s r hs
  refine ⟨fun x d hx howner hready => ?completes, fun x hx hwait => State.busTick_of_waiting hx hwait, fun hx hnone => ?rests,
    fun j q hx hj hq hmin => ?grants⟩
  case completes =>
    have hlen := hs.length_lines howner
    rw [State.busTick_of_ready hx hready]
    have hself := State.core_complete (s := s) d howner x.owner
    rw [if_pos rfl] at hself
    refine ⟨rfl, rfl, ⟨rfl, rfl, rfl, rfl, rfl, s.nCores_complete x d⟩, fun n hn => ?_, fun b hb => ⟨?_, ?_⟩,
      State.bits_complete_self howner hlen, State.lineData_complete_self howner hlen, ?_,
      fun j hj => (State.core_complete d howner j).trans (if_neg hj)⟩
    · rw [hself]
      exact List.getElem?_set_ne (Ne.symm hn)
    · exact Cache.getBits_congr (State.line_complete_of_ne howner hlen hb)
    · exact congrArg Line.data (State.line_complete_of_ne howner hlen hb)
    · rw [hself]
      rfl
  case rests => simp only [State.busTick, hx, State.leastPending_eq_none.mpr hnone]
  case grants =>
    have hleast : s.leastPending = some j := State.leastPending_eq_some.mpr ⟨hj, by simp [hq], hmin⟩
    have htick : s.busTick r = s.grant j := by simp only [State.busTick, hx, hleast]
    exact ⟨htick, _, by rw [htick, State.grant_of_pend hq]; rfl⟩

end Sys2Proof.Machine
end

section
/-! PROOFS. The Memory stage (42_load_store.md section 1): the hit, the miss and the stop of a load and of a store; the check of an SC (52_bus.md
section 3); the memory unit's latency (53_memory_unit.md section 1). -/

namespace Sys2Proof.Machine

/-! ## The miss -/

theorem State.noOtherPending_iff {s : State} {k : Nat} :
    s.noOtherPending k = true ↔ ∀ j, j < s.nCores → j ≠ k → (s.core j).pend = none := by
  simp only [State.noOtherPending, List.all_eq_true, List.mem_range, Bool.or_eq_true, decide_eq_true_eq, Option.isNone_iff_eq_none]
  exact ⟨fun h j hj hne => (h j hj).resolve_left hne, fun h j hj => or_iff_not_imp_left.mpr (h j hj)⟩

/-- Everything a miss leaves (R125, R143): the core frozen for its request, the request granted or waiting, and memory as it was. -/
theorem State.miss_leaves {s : State} {k : Nat} (n : Nat) (cmd : BusCmd) (a : Word) (hk : k < s.nCores) :
    let t := (s.modCache k fun c => { c with misses := n }).miss k cmd a
    FrozenFor (s.core k) (t.core k) cmd a ∧ (t.core k).cache.misses = n ∧
      (t.core k).cache.hits = (s.core k).cache.hits ∧ GrantedOrWaiting s t k cmd a ∧ t.mem = s.mem := by
  dsimp only
  have hcore := State.core_setCore_self s k ((s.core k).awaiting { cmd := cmd, addr := a } n) hk
  rw [State.miss_eq]
  unfold GrantedOrWaiting
  simp only [State.noOtherPending_iff]
  by_cases hgrant : s.txn = none ∧ ∀ j, j < s.nCores → j ≠ k → (s.core j).pend = none
  · rw [if_pos hgrant, if_pos hgrant]
    generalize hu : s.setCore k ((s.core k).awaiting { cmd := cmd, addr := a } n) = u at hcore
    have hmem : u.mem = s.mem := by
      rw [← hu]
      rfl
    have hpend : (u.core k).pend = some { cmd := cmd, addr := a } := by
      rw [hcore]
      rfl
    obtain ⟨m, hm⟩ := (u.grant_keeps k k).1 rfl
    rw [hm, hcore]
    exact ⟨⟨rfl, rfl⟩, rfl, rfl, ⟨_, by rw [State.grant_of_pend hpend]; rfl⟩, (u.grant_sameBesideBus k).2.1.trans hmem⟩
  · rw [if_neg hgrant, if_neg hgrant, hcore]
    exact ⟨⟨rfl, rfl⟩, rfl, rfl, rfl, rfl⟩

/-! ## The statements about the Memory stage -/

theorem State.hasCopy_of_bits_ne {s : State} {k : Nat} {a : Word} (h : s.bits k a ≠ none) :
    (s.core k).cache.hasCopy s.cfg.indexBits a = true :=
  (Cache.hasCopy_iff_getBits ..).mpr h

/-- Settles O24: the three answers of `memoryLoad`. -/
theorem memReadHitMissOrFault : Obligations.MemReadHitMissOrFault := by
  intro s k rd rs rt i v ht hk hi hv
  have hexec : exec i s = memoryLoad k s := by
    rw [exec_memory i ht]
    obtain rfl | rfl := hi <;> rfl
  subst hv
  rw [hexec]
  refine ⟨fun ha => checkingAddress_fault _ ha, fun ha hcopy => ?hit, fun ha hnone => ?miss⟩
  case hit =>
    refine ⟨_, memoryLoad_hit ha (State.hasCopy_of_bits_ne hcopy), (sameOutside_modCore k s _).trans (sameOutside_pass k _ _ _), ?_⟩
    rw [State.core_pass _ _ _ _ (by simpa [State.modCache] using hk), State.modCache, State.core_modCore_self _ _ _ hk]
    rfl
  case miss =>
    obtain ⟨hfrozen, hmisses, hhits, hgranted, hmem⟩ := State.miss_leaves ((s.core k).cache.misses + 1) .busRd (s.slot k .memory).addr hk
    exact ⟨_, memoryLoad_miss ha ((Cache.getBits_eq_none_iff ..).mp hnone), hfrozen, hmisses, hhits, hgranted, hmem, fun a =>
      congrArg (fun m => m.read a) hmem⟩

/-- What the write into the own Modified line leaves, of a machine in which core k's cache is the written one (R102, R135). -/
theorem storedInLine_of_write {s t : State} {k : Nat} {ea v : Word} (hcfg : t.cfg = s.cfg) (hb : s.bits k ea = some .modified)
    (hcache : (t.core k).cache = ((s.core k).cache.write s.cfg.indexBits ea v).2) : StoredInLine s t k ea v := by
  have howns := (Cache.owns_iff ..).mpr hb
  unfold StoredInLine State.bits State.lineData
  rw [hcache, hcfg]
  refine ⟨(Cache.getBits_write v ea howns).trans hb, Cache.getData_write_self v howns,
    fun b hne => ⟨Cache.getBits_write v b howns, fun hcopy => Cache.getData_write_of_ne v howns hne hcopy⟩, ?_⟩
  rw [Cache.write_of_owns v howns]
  rfl

/-- Settles O25: the three answers of `memoryStore`. -/
theorem memWriteStoreMissOrFault : Obligations.MemWriteStoreMissOrFault := by
  intro s k rd rs rt i v ht hk hi hv
  have hexec : exec i s = memoryStore k s := by
    rw [exec_memory i ht]
    obtain rfl | ⟨rfl, hok⟩ := hi
    · rfl
    · exact memoryStoreConditional_of_scOk (hv ▸ hok)
  subst hv
  rw [hexec]
  refine ⟨fun ha => checkingAddress_fault _ ha, fun ha hmod => ?hit, fun ha hnot => ?miss⟩
  case hit =>
    have hcore := State.core_pass (s.modCache k fun c => (c.write s.cfg.indexBits (s.slot k .memory).addr (s.slot k .memory).sdata).2)
      k .memory (s.slot k .memory) (by simpa [State.modCache] using hk)
    rw [State.modCache, State.core_modCore_self _ _ _ hk] at hcore
    refine ⟨_, memoryStore_hit ha ((Cache.owns_iff ..).mpr hmod), (sameOutside_modCore k s _).trans (sameOutside_pass k _ _ _),
      storedInLine_of_write rfl hmod ?_, ?_⟩
    · rw [State.modCache, hcore]
    · rw [State.modCache, hcore]
      rfl
  case miss =>
    have howns : (s.core k).cache.owns s.cfg.indexBits (s.slot k .memory).addr = false := by
      rw [← Bool.not_eq_true, Cache.owns_iff]
      exact hnot
    obtain ⟨hfrozen, hmisses, hhits, hgranted, hmem⟩ := State.miss_leaves (s.core k).cache.misses .busRdX (s.slot k .memory).addr hk
    exact ⟨_, memoryStore_miss ha howns, hfrozen, hmisses, hhits, hgranted, hmem, fun a =>
      congrArg (fun m => m.read a) hmem⟩

/-! ## The check of an SC -/

theorem State.reservationHolds_eq_false {s : State} {k : Nat} {a : Word} :
    s.reservationHolds k a = false ↔ ∃ j, j ≠ k ∧ s.watchOf k a = .succeededFor j := by
  unfold State.reservationHolds
  split
  · next j hw => simp [hw]
  · next hw => simp [hw]
  · next hw => simp [hw]

theorem State.reservationHolds_eq_true {s : State} {k : Nat} {a : Word} :
    s.reservationHolds k a = true ↔ ∀ j, j ≠ k → s.watchOf k a ≠ .succeededFor j := by
  rw [← Bool.not_eq_false, State.reservationHolds_eq_false]
  push Not
  rfl

/-- Settles O41: the answer reads the own entry, which the consumption leaves or attributes to the core itself. -/
theorem checkAndConsumeOutcome : Obligations.CheckAndConsumeOutcome := by
  intro s k a hs hk
  have hconsumed := watchesConsumed_consumeWatches hs k a
  refine ⟨State.reservationHolds_eq_false, hconsumed, fun hok => ?_, fun j _ hj hw => ?_⟩
  · refine State.reservationHolds_eq_true.mpr fun j hj => ?_
    change (s.consumeWatches k a).watchOf k a ≠ _
    rw [hconsumed k a]
    split
    · exact fun heq => hj (by injection heq with h; exact h.symm)
    · exact State.reservationHolds_eq_true.mp hok j hj
  · refine State.reservationHolds_eq_false.mpr ⟨k, Ne.symm hj, ?_⟩
    change (s.consumeWatches k a).watchOf j a = _
    rw [hconsumed j a, if_pos ⟨rfl, hw⟩]

/-- Settles O42: a step writes the tables in Execute of an LL or SC, or not at all. -/
theorem onlyLlAndScTouchTheWatchTable : Obligations.OnlyLlAndScTouchTheWatchTable := by
  intro s t h hnot j
  rw [State.watch_core, State.watch_core]
  obtain h | ⟨k, i, ht, hi, ⟨rd, rs, rt, rfl, -⟩ | ⟨rd, rs, rt, rfl, -⟩⟩ := step_watches h
  · rw [h]
  · exact absurd hi (hnot k rd rs rt ht).1
  · exact absurd hi (hnot k rd rs rt ht).2

/-! ## The memory unit's latency -/

section
variable {s : State} {op : MemOp}

theorem State.memTick_counting (h : s.memop = some op) (hr : 1 < op.remaining) :
    s.memTick = (.noOp, { s with memop := some { op with remaining := op.remaining - 1 } }) := by
  have hpos : op.remaining - 1 > 0 := by omega
  simp only [State.memTick, h, if_pos hpos]

theorem State.memTick_read {a : Word} {n : Nat} (h : s.memop = some { kind := .read, addr := a, remaining := n }) (hr : n ≤ 1) :
    s.memTick = (.readCompleted, { s with memop := none, memStaged := s.mem.read a.toNat }) := by
  have hdone : ¬ n - 1 > 0 := by omega
  simp only [State.memTick, h, if_neg hdone]

theorem State.memTick_write {a d : Word} {n : Nat} (h : s.memop = some { kind := .write d, addr := a, remaining := n }) (hr : n ≤ 1) :
    s.memTick = (.writeCompleted, { s with memop := none, mem := s.mem.write a.toNat d }) := by
  have hdone : ¬ n - 1 > 0 := by omega
  simp only [State.memTick, h, if_neg hdone]

/-- Until the last memory tick only the countdown moves (R160). -/
theorem State.iterate_memTick (m : Nat) (h : s.memop = some op) (hm : m < op.remaining) :
    (fun u : State => u.memTick.2)^[m] s = { s with memop := some { op with remaining := op.remaining - m } } := by
  induction m with
  | zero =>
    rw [Nat.sub_zero, ← h]
    rfl
  | succ m ih =>
    rw [Function.iterate_succ_apply', ih (by omega), State.memTick_counting rfl (by change 1 < op.remaining - m; omega)]
    simp only [Nat.sub_sub]

end

/-- Settles O45: `iterate_memTick`, and then the last tick. -/
theorem memoryLatencyIsExact : Obligations.MemoryLatencyIsExact := by
  intro s a d n hidle hs hlat
  have hbegun : ∀ (kind : MemOpKind) (m : Nat), m ≤ n →
      (fun u : State => u.memTick.2)^[m] (s.beginMemOp kind a).2 =
        { s with memop := some { kind := kind, addr := a, remaining := n + 1 - m } } := by
    intro kind m hm
    rw [s.beginMemOp_idle kind a hidle, State.iterate_memTick m rfl (by change m < s.cfg.memLatency; omega), hlat]
  refine ⟨fun kind m hm => ?counting, ?reads, ?_⟩
  case counting =>
    rw [hbegun kind m (by omega), hbegun kind (m + 1) (by omega), State.memTick_counting rfl (by change 1 < n + 1 - m; omega)]
    exact ⟨rfl, rfl, rfl⟩
  case reads =>
    have hlast := State.memTick_read (s := { s with memop := some { kind := .read, addr := a, remaining := n + 1 - n } }) rfl (by omega)
    rw [State.beginRead, hbegun .read n (Nat.le_refl n), hlast]
    simp only [← hidle]
  have hlast := State.memTick_write (s := { s with memop := some { kind := .write d, addr := a, remaining := n + 1 - n } }) rfl (by omega)
  rw [State.beginWrite, hbegun (.write d) n (Nat.le_refl n), hlast]
  exact ⟨rfl, rfl, fun b => Memory.read_write s.mem hs.1 a.toNat b d⟩

end Sys2Proof.Machine
end

section
/-! PROOFS. What a step does to each core, said once (`Core.Steps`, `step_core`), and the invariants that speak of each core by itself: the hard-wired
registers, the shape, the legal records, the programs, the drained cores, the isolation of the pipelines. -/

namespace Sys2Proof.Machine

/-! ## What a step does to one core -/

/-- Everything a step, taken with the turn at `u`, can do to core j; `ib` is INDEX_BITS. -/
inductive Core.Steps (ib j : Nat) : Turn → Core → Core → Prop
  /-- Its own stage does nothing. -/
  | idle (st : Stage) (c : Core) (h : c.stalled.get st = true ∨ (st = .fetch ∧ c.hzHold = true)) :
      Core.Steps ib j (.stage j st) c c
  /-- Its own stage acts. -/
  | acted (st : Stage) (c c' : Core) (hs : c.stalled.get st = false) (h : Core.Acts ib st c c') : Core.Steps ib j (.stage j st) c c'
  /-- Its own miss is granted at once. -/
  | granted (c : Core) (q : Request) (n m : Nat) (hs : c.stalled.memory = false) :
      Core.Steps ib j (.stage j .memory) c
        { c.awaiting q n with cache := { (c.awaiting q n).cache with memReads := m } }
  /-- Its pipeline cycle begins. -/
  | begun (c : Core) (hd : c.drained = false) : Core.Steps ib j (.cycleStart j) c c.beginCycle
  /-- Another core's request snoops its cache, or nothing happens to it. -/
  | snooped (u : Turn) (c : Core) (x : Cache) (hu : ∀ st, u ≠ .stage j st) (hx : Cache.Snooped c.cache x) :
      Core.Steps ib j u c { c with cache := x }
  /-- Another core's SC consumes its watch. -/
  | consumed (k : Nat) (c : Core) (a : Word) (hk : k ≠ j) :
      Core.Steps ib j (.stage k .execute) c { c with watch := watchWrite c.watch a (.succeededFor k) }
  /-- The bus tick grants its request. -/
  | counted (r : MemResult) (c : Core) (n : Nat) :
      Core.Steps ib j (.bus r) c { c with cache := { c.cache with memReads := n } }
  /-- The bus tick completes its request. -/
  | served (r : MemResult) (c : Core) (x : Txn) (d : Word) : Core.Steps ib j (.bus r) c (c.serve ib x d)

/-- Nothing happens to a core outside its own stages. -/
theorem Core.Steps.kept {ib j : Nat} {u : Turn} (c : Core) (hu : ∀ st, u ≠ .stage j st) : Core.Steps ib j u c c :=
  .snooped u c c.cache hu (.refl _)

theorem Core.Steps.of_grantKeeps {ib j k : Nat} {u : Turn} {c c' : Core} (hu : ∀ st, u ≠ .stage j st) (hj : j ≠ k)
    (h : GrantKeeps k j c c') : Core.Steps ib j u c c' := by
  obtain ⟨x, hx, rfl⟩ := h.2 hj
  exact .snooped u c x hu hx

theorem State.core_consumeWatches (s : State) (k : Nat) (a : Word) (j : Nat) :
    (s.consumeWatches k a).core j =
      if s.watchOf j a = .watched then { s.core j with watch := watchWrite (s.core j).watch a (.succeededFor k) }
      else s.core j := by
  by_cases hj : j < s.nCores
  · have hlt : j < s.cores.length := hj
    simp only [State.consumeWatches, State.watchOf, State.core, List.getD_eq_getElem?_getD, List.getElem?_map,
      List.getElem?_eq_getElem hlt, Option.map_some, Option.getD_some]
  · have hle : s.nCores ≤ j := Nat.le_of_not_lt hj
    have hle' : (s.consumeWatches k a).nCores ≤ j := by simpa [State.nCores, State.consumeWatches] using hle
    rw [State.watchOf, State.core_of_le _ j hle', State.core_of_le s j hle]
    rfl

@[simp] theorem State.nCores_consumeWatches (s : State) (k : Nat) (a : Word) : (s.consumeWatches k a).nCores = s.nCores := by
  simp [State.nCores, State.consumeWatches]

/-- What a stage of core k does to core j. -/
theorem StageStep.core {k : Nat} {st : Stage} {s t : State} (h : StageStep k st s t) {j : Nat} (hj : j < s.nCores) :
    Core.Steps s.cfg.indexBits j (.stage k st) (s.core j) (t.core j) := by
  by_cases hjk : j = k
  · subst hjk
    cases h with
    | outside _ _ hle => exact absurd hj (Nat.not_lt_of_le hle)
    | idle _ _ h => exact .idle st _ h
    | acted _ _ c _ hs hc =>
      rw [State.core_setCore_self _ _ _ hj]
      exact .acted st _ c hs hc
    | consumed _ a v _ hs hv =>
      rw [State.core_pass _ _ _ _ (by simpa using hj), State.core_consumeWatches]
      split
      · exact .acted .execute _ _ hs (.watched _ a _ v hv)
      · exact .acted .execute _ _ hs (.passed _ .execute v (.inl rfl) hv)
    | granted _ q n _ hs _ =>
      obtain ⟨m, hm⟩ := ((s.setCore j ((s.core j).awaiting q n)).grant_keeps j j).1 rfl
      rw [hm, State.core_setCore_self _ _ _ hj]
      exact .granted _ q n m hs
  · have hu : ∀ st', Turn.stage k st ≠ .stage j st' := fun st' heq => hjk (by injection heq with h; exact h.symm)
    cases h with
    | outside => exact .kept _ hu
    | idle => exact .kept _ hu
    | acted _ _ c =>
      rw [State.core_setCore_ne _ _ _ _ hjk]
      exact .kept _ hu
    | consumed _ a v =>
      rw [State.core_pass_ne _ _ _ _ _ hjk, State.core_consumeWatches]
      split
      · exact .consumed k _ a (Ne.symm hjk)
      · exact .kept _ hu
    | granted _ q n =>
      have hkeeps := (s.setCore k ((s.core k).awaiting q n)).grant_keeps k j
      rw [State.core_setCore_ne _ _ _ _ hjk] at hkeeps
      exact .of_grantKeeps hu hjk hkeeps

/-- What a stage leaves of the shared fields. -/
theorem StageStep.sameBesideBus {k : Nat} {st : Stage} {s t : State} (h : StageStep k st s t) : SameBesideBus s t := by
  cases h with
  | outside => exact ⟨rfl, rfl, rfl, rfl, rfl, rfl⟩
  | idle => exact ⟨rfl, rfl, rfl, rfl, rfl, rfl⟩
  | acted _ _ c => simp [SameBesideBus]
  | consumed _ a v => simp [SameBesideBus]
  | granted _ q n =>
    have hgrant := (s.setCore k ((s.core k).awaiting q n)).grant_sameBesideBus k
    simpa [SameBesideBus] using hgrant

@[simp] theorem State.core_memTick (s : State) (j : Nat) : s.memTick.2.core j = s.core j := by
  unfold State.memTick
  split
  · rfl
  · split
    · rfl
    · split <;> rfl

@[simp] theorem State.cfg_memTick (s : State) : s.memTick.2.cfg = s.cfg := by
  unfold State.memTick
  split
  · rfl
  · split
    · rfl
    · split <;> rfl

@[simp] theorem State.nCores_memTick (s : State) : s.memTick.2.nCores = s.nCores := by
  unfold State.memTick
  split
  · rfl
  · split
    · rfl
    · split <;> rfl

/-- The bus tick changes nothing outside the cores but the transaction, the memory's operation and the event log. -/
theorem State.busTick_sameBesideBus (s : State) (r : MemResult) : SameBesideBus s (s.busTick r) := by
  obtain ⟨x, d, -, h, -⟩ | ⟨x, -, h, -⟩ | ⟨j, -, -, h⟩ | ⟨-, -, h⟩ := s.busTick_cases r <;> rw [h]
  · exact ⟨rfl, rfl, rfl, rfl, rfl, s.nCores_complete x d⟩
  · exact ⟨rfl, rfl, rfl, rfl, rfl, rfl⟩
  · exact s.grant_sameBesideBus j
  · exact ⟨rfl, rfl, rfl, rfl, rfl, rfl⟩

theorem State.core_busTick (s : State) (r : MemResult) (j : Nat) :
    Core.Steps s.cfg.indexBits j (.bus r) (s.core j) ((s.busTick r).core j) := by
  have hu : ∀ st, Turn.bus r ≠ .stage j st := fun _ => Turn.noConfusion
  obtain ⟨x, d, -, h, -⟩ | ⟨x, -, h, -⟩ | ⟨k, -, -, h⟩ | ⟨-, -, h⟩ := s.busTick_cases r <;> rw [h]
  · by_cases ho : x.owner < s.nCores
    · rw [State.core_complete d ho]
      split
      · next hj =>
        rw [hj]
        exact .served r _ x d
      · exact .kept _ hu
    · rw [State.core_complete_of_le d (Nat.le_of_not_lt ho)]
      exact .kept _ hu
  · exact .kept _ hu
  · by_cases hj : j = k
    · obtain ⟨n, hn⟩ := (s.grant_keeps k j).1 hj
      rw [hn]
      exact .counted r _ n
    · exact .of_grantKeeps hu hj (s.grant_keeps k j)
  · exact .kept _ hu

/-- Everything a step does to core j. -/
theorem step_core {s t : State} (h : step s = .next t) {j : Nat} (hj : j < s.nCores) :
    Core.Steps s.cfg.indexBits j s.turn (s.core j) (t.core j) := by
  obtain ⟨ht, -, rfl⟩ | ⟨ht, -, -, rfl⟩ | ⟨k, ht, -, -, rfl⟩ | ⟨k, ht, hk, hd, rfl⟩ | ⟨k, ht, -, rfl⟩ | ⟨k, st, u, ht, hu, rfl⟩ |
    ⟨ht, rfl⟩ | ⟨r, ht, rfl⟩ := step_cases s t h <;> rw [ht]
  · exact .kept _ fun _ => Turn.noConfusion
  · exact .kept _ fun _ => Turn.noConfusion
  · exact .kept _ fun _ => Turn.noConfusion
  · rw [State.core_give, State.core_modCore _ _ _ _ hk]
    split
    · next hjk =>
      subst hjk
      exact .begun _ hd
    · exact .kept _ fun _ => Turn.noConfusion
  · exact .kept _ fun _ => Turn.noConfusion
  · exact (stageStep_of_next ht hu).core hj
  · rw [State.core_give, State.core_memTick]
    exact .kept _ fun _ => Turn.noConfusion
  · exact s.core_busTick r j

/-- A step keeps the parameters and the number of cores (R9). -/
theorem step_cfg {s t : State} (h : step s = .next t) : t.cfg = s.cfg ∧ t.nCores = s.nCores := by
  obtain ⟨-, -, rfl⟩ | ⟨-, -, -, rfl⟩ | ⟨k, -, -, -, rfl⟩ | ⟨k, -, -, -, rfl⟩ | ⟨k, -, -, rfl⟩ | ⟨k, st, u, ht, hu, rfl⟩ |
    ⟨-, rfl⟩ | ⟨r, -, rfl⟩ := step_cases s t h
  · exact ⟨rfl, rfl⟩
  · exact ⟨rfl, rfl⟩
  · exact ⟨rfl, rfl⟩
  · exact ⟨rfl, s.nCores_modCore k _⟩
  · exact ⟨rfl, rfl⟩
  · have hframe := (stageStep_of_next ht hu).sameBesideBus
    exact ⟨hframe.1, hframe.2.2.2.2.2⟩
  · exact ⟨s.cfg_memTick, s.nCores_memTick⟩
  · have hframe := s.busTick_sameBesideBus r
    exact ⟨hframe.1, hframe.2.2.2.2.2⟩

/-- A core past the last stays the core at reset that it is. -/
theorem step_core_of_le {s t : State} (h : step s = .next t) {j : Nat} (hj : s.nCores ≤ j) : t.core j = s.core j := by
  obtain ⟨hcfg, hcores⟩ := step_cfg h
  rw [State.core_of_le s j hj, State.core_of_le t j (hcores ▸ hj), hcfg]

theorem State.forall_cores {s : State} {P : Core → Prop} : (∀ c ∈ s.cores, P c) ↔ ∀ k, k < s.nCores → P (s.core k) := by
  simp only [State.mem_cores]
  exact ⟨fun h k hk => h _ ⟨k, hk, rfl⟩, fun h c ⟨k, hk, hc⟩ => hc ▸ h k hk⟩

/-- What every step of a core keeps, every step of the machine keeps in all cores. -/
theorem step_keeps_cores {P : Core → Prop} {s t : State}
    (hP : ∀ j u c c', Core.Steps s.cfg.indexBits j u c c' → P c → P c') (hs : ∀ c ∈ s.cores, P c) (h : step s = .next t) :
    ∀ c ∈ t.cores, P c := by
  rw [State.forall_cores] at hs ⊢
  intro k hk
  rw [(step_cfg h).2] at hk
  exact hP _ _ _ _ (step_core h hk) (hs k hk)

/-! ## The hard-wired registers (R18, R19, R27) -/

/-- The deferred write that is applied names neither register. -/
theorem Core.HardWired.applyDeferred {c : Core} (h : c.HardWired) : c.applyDeferred.HardWired := by
  obtain ⟨h0, h1, hdw⟩ := h
  unfold Core.applyDeferred
  split
  · exact ⟨h0, h1, hdw⟩
  · next d hd =>
    have hne0 : d.reg.toNat ≠ 0 := fun heq => (hdw d hd).1 (BitVec.eq_of_toNat_eq heq)
    have hne1 : d.reg.toNat ≠ 1 := fun heq => (hdw d hd).2 (BitVec.eq_of_toNat_eq heq)
    refine ⟨?_, ?_, by simp⟩
    · exact (Vector.getElem_set_ne d.reg.isLt (by decide) hne0).trans h0
    · exact (Vector.getElem_set_ne d.reg.isLt (by decide) hne1).trans h1

theorem Core.Acts.hardWired {ib : Nat} {st : Stage} {c c' : Core} (h : Core.Acts ib st c c') (hc : c.HardWired) : c'.HardWired := by
  cases h with
  | applied => exact hc.applyDeferred
  | recorded _ i d v hi hd h0 h1 =>
    obtain ⟨hr0, hr1, -⟩ := hc.applyDeferred
    refine ⟨hr0, hr1, fun e he => ?_⟩
    cases he
    exact ⟨h0, h1⟩
  | halted => exact hc.applyDeferred
  | passed | watched | loaded | stored | missed | held | decoded | redirected | flushed | fetched => exact hc

/-- Settles O46: only Write-back writes registers or the deferred write. -/
theorem stepKeepsHardWiredRegisters : Obligations.StepKeepsHardWiredRegisters := by
  intro s t hs h
  refine step_keeps_cores (P := Core.HardWired) (fun j u c c' hstep hc => ?_) hs h
  cases hstep with
  | acted _ _ _ _ hacts => exact hacts.hardWired hc
  | idle | granted | begun | snooped | consumed | counted | served => exact hc

/-! ## The shape (R31, log 8) -/

/-- A core's tables are in canonical form and its cache has `n` lines. -/
def Core.Shaped (n : Nat) (c : Core) : Prop := Sparse.wf Watch.notWatched c.watch = true ∧ c.cache.lines.length = n

theorem Core.Acts.shaped {ib n : Nat} {st : Stage} {c c' : Core} (h : Core.Acts ib st c c') (hc : c.Shaped n) : c'.Shaped n := by
  cases h with
  | applied => simpa [Core.Shaped] using hc
  | recorded => simpa [Core.Shaped] using hc
  | halted => simpa [Core.Shaped] using hc
  | watched _ a w => exact ⟨wf_watchWrite _ hc.1 a w, hc.2⟩
  | stored _ a d => exact ⟨hc.1, (Cache.length_write ..).trans hc.2⟩
  | passed | loaded | missed | held | decoded | redirected | flushed | fetched => exact hc

theorem Core.Steps.shaped {ib j n : Nat} {u : Turn} {c c' : Core} (h : Core.Steps ib j u c c') (hc : c.Shaped n) : c'.Shaped n := by
  cases h with
  | acted _ _ _ _ hacts => exact hacts.shaped hc
  | snooped _ _ x _ hx => exact ⟨hc.1, hx.length.trans hc.2⟩
  | consumed k _ a => exact ⟨wf_watchWrite _ hc.1 a _, hc.2⟩
  | served _ _ x d => exact ⟨hc.1, (Cache.length_install ..).trans hc.2⟩
  | idle | granted | begun | counted => exact hc

theorem State.wf_mem_memTick {s : State} (h : s.mem.wf = true) : s.memTick.2.mem.wf = true := by
  unfold State.memTick
  split
  · exact h
  · split
    · exact h
    · split
      · exact h
      · exact Memory.wf_write _ h _ _

/-- A step writes memory in the memory tick only (R160). -/
theorem step_mem {s t : State} (h : step s = .next t) : t.mem = s.mem ∨ t.mem = s.memTick.2.mem := by
  obtain ⟨-, -, rfl⟩ | ⟨-, -, -, rfl⟩ | ⟨k, -, -, -, rfl⟩ | ⟨k, -, -, -, rfl⟩ | ⟨k, -, -, rfl⟩ | ⟨k, st, u, ht, hu, rfl⟩ |
    ⟨-, rfl⟩ | ⟨r, -, rfl⟩ := step_cases s t h
  · exact .inl rfl
  · exact .inl rfl
  · exact .inl rfl
  · exact .inl rfl
  · exact .inl rfl
  · exact .inl (stageStep_of_next ht hu).sameBesideBus.2.1
  · exact .inr rfl
  · exact .inl (s.busTick_sameBesideBus r).2.1

/-- Settles O47: the writes keep the canonical form, and no operation of the cache adds or removes a line. -/
theorem stepKeepsShape : Obligations.StepKeepsShape := by
  intro s t hs h
  refine ⟨?_, ?_⟩
  · obtain hmem | hmem := step_mem h <;> rw [hmem]
    · exact hs.1
    · exact State.wf_mem_memTick hs.1
  · rw [(step_cfg h).1]
    exact step_keeps_cores (P := Core.Shaped s.cfg.nLines) (fun _ _ _ _ hstep hc => hstep.shaped hc) hs.2 h

/-! ## Legal records (R168, R169) -/

/-- Every slot holds a legal record. -/
def Slots.Legal (x : Slots) : Prop := ∀ st, (x.get st).content.Legal

theorem Slots.Legal.set {x : Slots} (h : x.Legal) (st : Stage) {v : Slot} (hv : v.content.Legal) : (x.set st v).Legal := by
  intro u
  by_cases hu : u = st
  · rw [hu, Slots.get_set_self]
    exact hv
  · rw [Slots.get_set_ne _ _ _ _ hu]
    exact h u

/-- A stage hands on a record that a slot held, or a Bubble, or the record of a word of the program. -/
theorem Core.Acts.legal {ib : Nat} {st : Stage} {c c' : Core} (h : Core.Acts ib st c c') (hc : c.Legal) : c'.Legal := by
  obtain ⟨hslots, hprog⟩ := hc
  have hhand : ∀ {st' u : Stage} {v : Slot}, v.content = (c.slots.get st').content → (c.slots.set u v).Legal := fun hv =>
    Slots.Legal.set hslots _ (hv ▸ hslots _)
  cases h with
  | applied => simpa [Core.Legal] using And.intro hslots hprog
  | recorded => simpa [Core.Legal] using And.intro hslots hprog
  | halted => simpa [Core.Legal] using And.intro hslots hprog
  | passed _ _ v _ hv => exact ⟨hhand hv, hprog⟩
  | watched _ a w v hv => exact ⟨hhand (st' := .execute) hv, hprog⟩
  | loaded _ v hv => exact ⟨hhand (st' := .memory) hv, hprog⟩
  | stored _ a d v _ hv => exact ⟨hhand (st' := .memory) hv, hprog⟩
  | missed => exact ⟨hslots, hprog⟩
  | held => exact ⟨Slots.Legal.set hslots .execute (v := .bubble) trivial, hprog⟩
  | decoded _ v hv => exact ⟨hhand (st' := .decode) hv, hprog⟩
  | redirected _ a v hv => exact ⟨hhand (st' := .decode) hv, hprog⟩
  | flushed => exact ⟨(Slots.Legal.set hslots .fetch (v := .bubble) trivial).set .decode (v := .bubble) trivial, hprog⟩
  | fetched _ w i _ _ hi =>
    have hwf : (freshSlot i c.pc).content.Legal := (encodeOfDecode w i hi).2
    exact ⟨Slots.Legal.set (Slots.Legal.set hslots .fetch hwf) .decode hwf, hprog⟩

/-- Settles O48: only a stage of the core itself changes its slots, and nothing changes its program. -/
theorem stepKeepsLegalRecords : Obligations.StepKeepsLegalRecords := by
  intro s t hs h
  refine step_keeps_cores (P := Core.Legal) (fun j u c c' hstep hc => ?_) hs h
  cases hstep with
  | acted _ _ _ _ hacts => exact hacts.legal hc
  | idle | granted | begun | snooped | consumed | counted | served => exact hc

/-! ## Programs and parameters (R23, R9) -/

theorem Core.Acts.imem {ib : Nat} {st : Stage} {c c' : Core} (h : Core.Acts ib st c c') : c'.imem = c.imem := by
  cases h with
  | applied | recorded | halted => exact c.imem_applyDeferred
  | passed | watched | loaded | stored | missed | held | decoded | redirected | flushed | fetched => rfl

theorem Core.Steps.imem {ib j : Nat} {u : Turn} {c c' : Core} (h : Core.Steps ib j u c c') : c'.imem = c.imem := by
  cases h with
  | acted _ _ _ _ hacts => exact hacts.imem
  | idle | granted | begun | snooped | consumed | counted | served => rfl

theorem step_imem {s t : State} (h : step s = .next t) (k : Nat) : (t.core k).imem = (s.core k).imem := by
  by_cases hk : k < s.nCores
  · exact (step_core h hk).imem
  · rw [step_core_of_le h (Nat.le_of_not_lt hk)]

/-- Settles O54: no action writes an instruction memory. -/
theorem programsAreReadOnly : Obligations.ProgramsAreReadOnly := by
  intro s t h
  obtain ⟨hcfg, hcores⟩ := step_cfg h
  refine ⟨hcfg, hcores, step_imem h, ?_⟩
  have hlen : (∀ c ∈ t.cores, 1 ≤ c.imem.length) ↔ ∀ c ∈ s.cores, 1 ≤ c.imem.length := by
    rw [State.forall_cores, State.forall_cores, hcores]
    simp only [step_imem h]
  rw [Bool.eq_iff_iff]
  simp only [State.parametersOk, hcfg, hcores, Bool.and_eq_true, List.all_eq_true, decide_eq_true_eq, hlen]

/-! ## Isolation (R40) -/

/-- Settles O55: another core's stage snoops the cache or consumes a watch. -/
theorem pipelinesAreIsolated : Obligations.PipelinesAreIsolated := by
  intro s t k j st ht h hjk
  by_cases hj : j < s.nCores
  · have hstep := step_core h hj
    rw [ht] at hstep
    generalize s.core j = c at hstep
    generalize t.core j = c' at hstep
    cases hstep with
    | idle | acted | granted => exact absurd rfl hjk
    | snooped _ _ x _ hx => exact ⟨hx.2, congrArg (fun y => { c with cache := y }) hx.1⟩
    | consumed => exact ⟨rfl, rfl⟩
  · rw [step_core_of_le h (Nat.le_of_not_lt hj)]
    exact ⟨rfl, rfl⟩

/-! ## Drained cores (R30) -/

theorem Core.Steps.drained {ib j : Nat} {u : Turn} {c c' : Core} (h : Core.Steps ib j u c c') :
    c'.drained = c.drained ∨
      (c'.drained = true ∧ u = .stage j .writeBack ∧ c.slots.writeBack.content = .instr .halt) := by
  cases h with
  | idle | granted | begun | snooped | consumed | counted | served => exact .inl rfl
  | acted _ _ _ _ hacts =>
    cases hacts with
    | halted _ hi => exact .inr ⟨rfl, rfl, hi⟩
    | applied | recorded => exact .inl c.drained_applyDeferred
    | passed | watched | loaded | stored | missed | held | decoded | redirected | flushed | fetched => exact .inl rfl

/-- Outside its own stages a core keeps its registers, its `pc` and its slots. -/
theorem Core.Steps.keeps_of_turn {ib j : Nat} {u : Turn} {c c' : Core} (h : Core.Steps ib j u c c') (hu : ∀ st, u ≠ .stage j st) :
    c'.regs = c.regs ∧ c'.pc = c.pc ∧ c'.slots = c.slots := by
  cases h with
  | idle st => exact absurd rfl (hu st)
  | acted st => exact absurd rfl (hu st)
  | granted => exact absurd rfl (hu .memory)
  | begun | snooped | consumed | counted | served => exact ⟨rfl, rfl, rfl⟩

/-- The turn passes as R163 has it. -/
theorem step_turn_of_stage {s t : State} (h : step s = .next t) {k : Nat} {st : Stage} (ht : s.turn = .stage k st) :
    t.turn = st.turnAfter k := by
  obtain ⟨ht', -⟩ | ⟨ht', -⟩ | ⟨_, ht', -⟩ | ⟨_, ht', -⟩ | ⟨_, ht', -⟩ | ⟨k', st', u, ht', -, rfl⟩ | ⟨ht', -⟩ | ⟨_, ht', -⟩ :=
    step_cases s t h <;> rw [ht] at ht' <;> cases ht'
  rfl

/-- A core gets its first stage's turn only by the start of its cycle, which a drained core is not given. -/
theorem step_turn_of_drained {s t : State} (h : step s = .next t) {k : Nat} (hd : (s.core k).drained = true)
    (hu : ∀ st, s.turn ≠ .stage k st) (st : Stage) : t.turn ≠ .stage k st := by
  obtain ⟨ht, -, rfl⟩ | ⟨-, -, -, rfl⟩ | ⟨j, -, -, -, rfl⟩ | ⟨j, -, -, hj, rfl⟩ | ⟨j, -, -, rfl⟩ | ⟨j, st', u, ht, -, rfl⟩ |
    ⟨-, rfl⟩ | ⟨r, -, rfl⟩ := step_cases s t h
  · exact hu st
  · exact Turn.noConfusion
  · exact Turn.noConfusion
  · intro heq
    injection heq with heq
    subst heq
    rw [hd] at hj
    cases hj
  · exact Turn.noConfusion
  · rw [State.turn_give]
    intro heq
    cases st' <;> cases heq <;> exact hu _ ht
  · exact Turn.noConfusion
  · exact Turn.noConfusion

/-- Settles O20: only `halted` sets the flag, and nothing clears it. -/
theorem drainedCoreStaysStopped : Obligations.DrainedCoreStaysStopped := by
  intro s t k hk h
  have hstep := step_core h hk
  refine ⟨fun hd => ⟨?_, fun hu => ⟨step_turn_of_drained h hd hu, hstep.keeps_of_turn hu⟩⟩, fun hd hd' => ?_⟩
  · obtain heq | ⟨heq, -, -⟩ := hstep.drained
    · exact heq.trans hd
    · exact heq
  · obtain heq | ⟨-, ht, hi⟩ := hstep.drained
    · rw [heq, hd] at hd'
      cases hd'
    · exact ⟨ht, hi⟩

end Sys2Proof.Machine
end

section
/-! PROOFS. The control state (10_state.md section 4, 50_pipeline.md section 6), the events of the bus, and the stops (60_exceptions.md): the freeze and
the request, the transaction and its owner, the countdown and the branch flag; and what a fault can be and where it comes from. -/

namespace Sys2Proof.Machine

/-! ## The freeze and the countdown, core by core -/

/-- The freeze matches the request and the hazard countdown is in 0 .. 3. -/
def Core.Controlled (c : Core) : Prop := c.FreezeMatches ∧ c.hzCount ≤ 3

theorem Core.hazard_le (c : Core) : c.hazard ≤ 3 := by
  unfold Core.hazard
  repeat' split
  all_goals omega

theorem Core.stallLength_le {c : Core} (h : c.hzCount ≤ 3) : c.stallLength ≤ 3 := by
  unfold Core.stallLength
  split
  · exact c.hazard_le
  · exact h

/-- A core whose Memory stage is not stalled has no request, and once frozen its stall flags are those of its new one. -/
theorem Core.FreezeMatches.awaiting {c : Core} (h : c.FreezeMatches) (q : Request) (n : Nat) : (c.awaiting q n).FreezeMatches := by
  obtain ⟨-, -, -, -, -, hf, hd, he, hm⟩ := h
  exact ⟨rfl, rfl, rfl, rfl, Bool.or_true _, hf, hd, he, hm⟩

/-- The promotion makes the delayed stall of Write-back current. -/
theorem Core.FreezeMatches.beginCycle {c : Core} (h : c.FreezeMatches) : c.beginCycle.FreezeMatches := by
  obtain ⟨hf, hd, he, hm, hw, hf', hd', he', hm'⟩ := h
  refine ⟨?_, ?_, ?_, ?_, ?_, rfl, rfl, rfl, rfl⟩
  · exact (congrArg (c.stalled.fetch || ·) hf').trans ((Bool.or_false _).trans hf)
  · exact (congrArg (c.stalled.decode || ·) hd').trans ((Bool.or_false _).trans hd)
  · exact (congrArg (c.stalled.execute || ·) he').trans ((Bool.or_false _).trans he)
  · exact (congrArg (c.stalled.memory || ·) hm').trans ((Bool.or_false _).trans hm)
  · exact (Bool.or_false _).trans hw

theorem Core.Acts.controlled {ib : Nat} {st : Stage} {c c' : Core} (h : Core.Acts ib st c c') (hc : c.Controlled) : c'.Controlled := by
  obtain ⟨hfreeze, hcount⟩ := hc
  cases h with
  | applied => simpa [Core.Controlled, Core.FreezeMatches] using And.intro hfreeze hcount
  | recorded => simpa [Core.Controlled, Core.FreezeMatches] using And.intro hfreeze hcount
  | halted => simpa [Core.Controlled, Core.FreezeMatches] using And.intro hfreeze hcount
  | missed _ q n => exact ⟨hfreeze.awaiting q n, hcount⟩
  | held => exact ⟨hfreeze, (Nat.sub_le _ _).trans (Core.stallLength_le hcount)⟩
  | decoded => exact ⟨hfreeze, Nat.zero_le 3⟩
  | redirected => exact ⟨hfreeze, Nat.zero_le 3⟩
  | passed | watched | loaded | stored | flushed | fetched => exact ⟨hfreeze, hcount⟩

theorem Core.Steps.controlled {ib j : Nat} {u : Turn} {c c' : Core} (h : Core.Steps ib j u c c') (hc : c.Controlled) :
    c'.Controlled := by
  cases h with
  | acted _ _ _ _ hacts => exact hacts.controlled hc
  | granted _ q n => exact ⟨hc.1.awaiting q n, hc.2⟩
  | begun => exact ⟨hc.1.beginCycle, hc.2⟩
  | served => exact ⟨⟨rfl, rfl, rfl, rfl, rfl, rfl, rfl, rfl, rfl⟩, hc.2⟩
  | idle | snooped | consumed | counted => exact hc

/-! ## The transaction and its owner -/

/-- Only a miss of the Memory stage latches a request. -/
theorem Core.Acts.pend {ib : Nat} {st : Stage} {c c' : Core} (h : Core.Acts ib st c c') : c'.pend = c.pend ∨ st = .memory := by
  cases h with
  | applied => exact .inl c.pend_applyDeferred
  | recorded => exact .inl c.pend_applyDeferred
  | halted => exact .inl c.pend_applyDeferred
  | missed => exact .inr rfl
  | passed | watched | loaded | stored | held | decoded | redirected | flushed | fetched => exact .inl rfl

/-- A core with a request pending keeps it until it is served: its Memory stage is stalled. -/
theorem Core.Steps.pend {ib j : Nat} {u : Turn} {c c' : Core} (h : Core.Steps ib j u c c') (hc : c.FreezeMatches) {q : Request}
    (hq : c.pend = some q) : c'.pend = some q ∨ ∃ r, u = .bus r := by
  have hstalled : c.stalled.memory = true := by rw [hc.2.2.2.1, hq]; rfl
  cases h with
  | acted _ _ _ hs hacts =>
    obtain h | rfl := hacts.pend
    · exact .inl (h.trans hq)
    · exact absurd (hs.symm.trans hstalled) Bool.false_ne_true
  | granted _ _ _ _ hs => exact absurd (hs.symm.trans hstalled) Bool.false_ne_true
  | idle | begun | snooped | consumed => exact .inl hq
  | counted r => exact .inr ⟨r, rfl⟩
  | served r => exact .inr ⟨r, rfl⟩

/-- What a step can do to the transaction register and the event log (R154). -/
def LogsTransactions (s t : State) : Prop :=
  (t.txn = s.txn ∧ t.events = s.events) ∨
  (∃ x, s.txn = none ∧ t.txn = some x ∧
    t.events = s.events ++
      [{ kind := .granted, tick := s.cycle, owner := x.owner, cmd := x.cmd, addr := x.addr, path := x.source.path }]) ∨
  (∃ x, s.txn = some x ∧ t.txn = none ∧
    t.events = s.events ++
      [{ kind := .completed, tick := s.cycle, owner := x.owner, cmd := x.cmd, addr := x.addr, path := x.source.path }])

theorem State.logsTransactions_grant {s : State} {k : Nat} (h : s.txn = none) : LogsTransactions s (s.grant k) := by
  cases hq : (s.core k).pend with
  | none =>
    rw [State.grant_of_no_pend hq]
    exact .inl ⟨rfl, rfl⟩
  | some q =>
    obtain ⟨⟨-, -, -, hcycle, -, -⟩, -, hevents⟩ := (s.snoop_cases k q).frame
    rw [State.grant_of_pend hq]
    refine .inr (.inl ⟨s.grantedTxn k q, h, rfl, ?_⟩)
    simp only [State.busEvent, hcycle, hevents]

theorem State.logsTransactions_busTick (s : State) (r : MemResult) : LogsTransactions s (s.busTick r) := by
  obtain ⟨x, d, hx, h, -⟩ | ⟨x, -, h, -⟩ | ⟨j, hx, -, h⟩ | ⟨-, -, h⟩ := s.busTick_cases r <;> rw [h]
  · exact .inr (.inr ⟨x, hx, rfl, rfl⟩)
  · exact .inl ⟨rfl, rfl⟩
  · exact State.logsTransactions_grant hx
  · exact .inl ⟨rfl, rfl⟩

theorem StageStep.logsTransactions {k : Nat} {st : Stage} {s t : State} (h : StageStep k st s t) : LogsTransactions s t := by
  cases h with
  | outside | idle | acted | consumed => exact .inl ⟨rfl, rfl⟩
  | granted _ q n _ _ hx => exact State.logsTransactions_grant (s := s.setCore k ((s.core k).awaiting q n)) hx

theorem State.memTick_txn_events (s : State) : s.memTick.2.txn = s.txn ∧ s.memTick.2.events = s.events := by
  unfold State.memTick
  split
  · exact ⟨rfl, rfl⟩
  · split
    · exact ⟨rfl, rfl⟩
    · split <;> exact ⟨rfl, rfl⟩

/-- Settles O43: only a grant and a completion write the two registers, each its event. -/
theorem busEventsLogTheTransactions : Obligations.BusEventsLogTheTransactions := by
  intro s t h
  obtain ⟨-, -, rfl⟩ | ⟨-, -, -, rfl⟩ | ⟨k, -, -, -, rfl⟩ | ⟨k, -, -, -, rfl⟩ | ⟨k, -, -, rfl⟩ | ⟨k, st, u, ht, hu, rfl⟩ |
    ⟨-, rfl⟩ | ⟨r, -, rfl⟩ := step_cases s t h
  · exact .inl ⟨rfl, rfl⟩
  · exact .inl ⟨rfl, rfl⟩
  · exact .inl ⟨rfl, rfl⟩
  · exact .inl ⟨rfl, rfl⟩
  · exact .inl ⟨rfl, rfl⟩
  · exact (stageStep_of_next ht hu).logsTransactions
  · exact .inl s.memTick_txn_events
  · exact s.logsTransactions_busTick r

/-- The transaction in flight serves its owner's request. -/
def State.TxnServes (s : State) : Prop :=
  ∀ x, s.txn = some x → x.owner < s.nCores ∧ (s.core x.owner).pend = some { cmd := x.cmd, addr := x.addr }

theorem State.txnServes_grant {s : State} {k : Nat} (h : s.txn = none) : (s.grant k).TxnServes := by
  intro x hx
  cases hq : (s.core k).pend with
  | none =>
    rw [State.grant_of_no_pend hq, h] at hx
    cases hx
  | some q =>
    obtain ⟨n, hn⟩ := (s.grant_keeps k k).1 rfl
    have hown : s.grantedTxn k q = x := by
      rw [State.grant_of_pend hq] at hx
      exact Option.some.inj hx
    subst hown
    refine ⟨?_, ?_⟩
    · rw [(s.grant_sameBesideBus k).2.2.2.2.2]
      exact State.lt_of_pend hq
    · change ((s.grant k).core k).pend = some q
      rw [hn]
      exact hq

/-- A transaction in flight goes on being its owner's until the bus tick completes it. -/
theorem step_keeps_txnServes {s t : State} (hcores : ∀ c ∈ s.cores, c.FreezeMatches) (hs : s.TxnServes) (h : step s = .next t) :
    t.TxnServes := by
  have hkept : t.txn = s.txn → (∀ r, s.turn ≠ .bus r) → t.TxnServes := by
    intro htxn hturn x hx
    obtain ⟨howner, hpend⟩ := hs x (htxn ▸ hx)
    refine ⟨(step_cfg h).2 ▸ howner, ?_⟩
    obtain hp | ⟨r, hr⟩ := (step_core h howner).pend (State.forall_cores.mp hcores _ howner) hpend
    · exact hp
    · exact absurd hr (hturn r)
  obtain ⟨ht, -, rfl⟩ | ⟨ht, -, -, rfl⟩ | ⟨k, ht, -, -, rfl⟩ | ⟨k, ht, -, -, rfl⟩ | ⟨k, ht, -, rfl⟩ | ⟨k, st, u, ht, hu, rfl⟩ |
    ⟨ht, rfl⟩ | ⟨r, ht, rfl⟩ := step_cases s t h
  · exact hs
  · exact hs
  · exact hs
  · exact hkept rfl fun r => by simp [ht]
  · exact hs
  · cases stageStep_of_next ht hu with
    | granted _ q n _ _ hx => exact State.txnServes_grant (s := s.setCore k ((s.core k).awaiting q n)) hx
    | outside | idle | acted | consumed => exact hkept rfl fun r => by simp [ht]
  · exact hkept s.memTick_txn_events.1 fun r => by simp [ht]
  · obtain ⟨x, d, hx, h, -⟩ | ⟨x, -, h, -⟩ | ⟨j, hx, -, h⟩ | ⟨-, -, h⟩ := s.busTick_cases r <;> rw [h]
    · exact fun y hy => by cases hy
    · exact hs
    · exact State.txnServes_grant hx
    · exact hs

/-! ## The branch flag -/

/-- Only Decode raises the flag, and then it is free to go; Fetch, when it acts, finds the flag and clears it. -/
theorem Core.Steps.branchTaken {ib j : Nat} {u : Turn} {c c' : Core} (h : Core.Steps ib j u c c') (hc : c.FreezeMatches)
    (hflag : c.branchTaken = true → u = .stage j .fetch ∧ c.hzHold = false ∧ c.stalled.fetch = false)
    (hb : c'.branchTaken = true) : u = .stage j .decode ∧ c'.hzHold = false ∧ c'.stalled.fetch = false := by
  have hnot : c.branchTaken = true → u = .stage j .fetch := fun h => (hflag h).1
  cases h with
  | idle st _ hidle =>
    obtain ⟨hu, hhold, hstall⟩ := hflag hb
    cases hu
    obtain hs | ⟨-, hs⟩ := hidle
    · exact absurd (hstall.symm.trans hs) Bool.false_ne_true
    · exact absurd (hhold.symm.trans hs) Bool.false_ne_true
  | acted _ _ _ hs hacts =>
    cases hacts with
    | redirected => exact ⟨rfl, rfl, (hc.1.trans hc.2.1.symm).trans hs⟩
    | fetched _ w i hclear => exact absurd (hclear.symm.trans hb) Bool.false_ne_true
    | flushed => cases hb
    | applied => cases hnot (c.branchTaken_applyDeferred.symm.trans hb)
    | recorded => cases hnot (c.branchTaken_applyDeferred.symm.trans hb)
    | halted => cases hnot (c.branchTaken_applyDeferred.symm.trans hb)
    | passed _ _ _ hst =>
      cases hnot hb
      simp at hst
    | watched | loaded | stored | missed | held | decoded => cases hnot hb
  | granted => cases hnot hb
  | begun => cases hnot hb
  | snooped _ _ _ hu => exact absurd (hnot hb) (hu .fetch)
  | consumed => cases hnot hb
  | counted => cases hnot hb
  | served => cases hnot hb

/-- Settles O50: the freeze and the countdown core by core, the transaction, and the branch flag. -/
theorem stepKeepsControlState : Obligations.StepKeepsControlState := by
  rintro s t ⟨hcores, htxn, hflag⟩ h
  refine ⟨step_keeps_cores (P := Core.Controlled) (fun _ _ _ _ hstep hc => hstep.controlled hc) hcores h,
    step_keeps_txnServes (fun c hc => (hcores c hc).1) htxn h, fun k hk hb => ?_⟩
  rw [(step_cfg h).2] at hk
  obtain ⟨hu, hhold, hstall⟩ := (step_core h hk).branchTaken (State.forall_cores.mp hcores k hk).1 (hflag k hk) hb
  exact ⟨step_turn_of_stage h hu, hhold, hstall⟩

/-! ## The stops -/

/-- A step faults in a stage only. -/
theorem step_fault {s : State} {e : Fault} (h : step s = .fault e) : ∃ k st, s.turn = .stage k st ∧ StageFault k st s e := by
  unfold step nextAction at h
  split at h
  · unfold tickStartAction at h
    split at h
    · cases h
    · split at h <;> cases h
  · unfold cycleStartAction at h
    split at h
    · split at h <;> cases h
    · cases h
  · next k st ht =>
    cases hr : stageAction k st s with
    | next u => rw [hr] at h; cases h
    | refused r => rw [hr] at h; cases h
    | fault f =>
      rw [hr] at h
      cases h
      exact ⟨k, st, ht, stageFault_of_fault ht hr⟩
  · cases h
  · cases h

/-- A step is refused at a tick's start, for a rejected program, or in Fetch, for an illegal word of one (R168). -/
theorem step_refused {s : State} {e : Refusal} (h : step s = .refused e) :
    s.loadProblem ≠ none ∨ ∃ k w x, (s.core k).wordAtPc = some w ∧ decodeWord w = .error x := by
  unfold step nextAction at h
  split at h
  · unfold tickStartAction at h
    split at h
    · cases h
    · split at h
      · next hl => exact .inl (by simp [hl])
      · cases h
  · unfold cycleStartAction at h
    split at h
    · split at h <;> cases h
    · cases h
  · next k st ht =>
    obtain ⟨u, hu, -⟩ | ⟨f, hf, -⟩ | ⟨w, x, r, -, hw, hx, -⟩ := stageAction_outcome ht
    · rw [hu] at h; cases h
    · rw [hf] at h; cases h
    · exact .inr ⟨k, w, x, hw, hx⟩
  · cases h
  · cases h

theorem StageFault.stop {k : Nat} {st : Stage} {s : State} {e : Fault} (h : StageFault k st s e) :
    e.stage = st ∧ (e.stop = s.stop k ∨ e.stop = (s.modCore k Core.releaseDecode).stop k) := by
  cases h with
  | registerRange | reg1Destination => exact ⟨rfl, .inr rfl⟩
  | unrecognisedOpcode | fetchFault | addressFault | shiftFault => exact ⟨rfl, .inl rfl⟩

/-- Settles O56: a stage stops on the machine as it is, Decode on the machine with the hazard check made. -/
theorem faultsComeFromTheirStage : Obligations.FaultsComeFromTheirStage := by
  intro s e h
  obtain ⟨k, st, ht, hfault⟩ := step_fault h
  obtain ⟨rfl, hstop | hstop⟩ := hfault.stop <;> rw [hstop]
  · exact ⟨k, ht, rfl, rfl, rfl, fun _ => rfl⟩
  · refine ⟨k, ht, rfl, rfl, rfl, fun j => ?_⟩
    change ((s.modCore k Core.releaseDecode).core j).regs = _
    by_cases hj : k < s.nCores
    · rw [State.core_modCore _ _ _ _ hj]
      split
      · next hjk => rw [hjk, Core.regs_releaseDecode]
      · rfl
    · rw [State.modCore_of_le _ _ _ (Nat.le_of_not_lt hj)]

theorem State.Legal.slot {s : State} (hs : s.Legal) (k : Nat) (st : Stage) : (s.slot k st).content.Legal := by
  by_cases hk : k < s.nCores
  · exact (State.forall_cores.mp hs k hk).1 st
  · rw [State.slot_of_le st (Nat.le_of_not_lt hk)]
    trivial

/-- Settles O49: a runtime fatal error names an illegal record in a slot, a refusal an illegal program. -/
theorem legalProgramsMeetNoRuntimeFatal : Obligations.LegalProgramsMeetNoRuntimeFatal := by
  refine fun s hs => ⟨fun e he => ?_, fun e he => ?_⟩
  · obtain ⟨k, st, -, hfault⟩ := step_fault he
    cases hfault with
    | registerRange _ w hw => exact False.elim (by simpa [hw, Content.Legal] using hs.slot k .decode)
    | reg1Destination _ i hi hwf =>
      have hlegal : i.wf = true := by simpa [hi, Content.Legal] using hs.slot k .decode
      rw [hwf] at hlegal
      cases hlegal
    | unrecognisedOpcode _ d hd => exact False.elim (by simpa [hd, Content.Legal] using hs.slot k .execute)
    | fetchFault | addressFault | shiftFault => rfl
  · obtain hload | ⟨k, w, x, hw, hx⟩ := step_refused he
    · exact hload (s.loadProblem_eq_none.mpr fun c hc => (hs c hc).2)
    · by_cases hk : k < s.nCores
      · obtain ⟨i, hi⟩ := (State.forall_cores.mp hs k hk).2.2 w (List.mem_of_getElem? hw)
        rw [hx] at hi
        cases hi
      · rw [State.core_of_le s k (Nat.le_of_not_lt hk)] at hw
        cases hw

end Sys2Proof.Machine
end

section
/-! PROOFS. The coherence invariant (20_memory.md section 4): what each action of the machine does to the copies of an address, to the transaction and
to the memory's operation; the invariant in the words of the spec; and the state at reset, which meets every invariant. -/

namespace Sys2Proof.Machine

/-! ## The clean word -/

theorem State.cleanWord_of_idle {s : State} (h : s.txn = none) (a : Word) : s.cleanWord a = s.mem.read a.toNat := by
  simp only [State.cleanWord, h]

theorem State.cleanWord_of_flush {s : State} {x : Txn} {d : Word} (h : s.txn = some x) (hx : x.source = .flush d) (a : Word) :
    s.cleanWord a = if x.addr = a then d else s.mem.read a.toNat := by
  simp only [State.cleanWord, h, hx]

theorem State.cleanWord_of_no_flush {s : State} {x : Txn} (h : s.txn = some x) (hx : ∀ d, x.source ≠ .flush d) (a : Word) :
    s.cleanWord a = s.mem.read a.toNat := by
  simp only [State.cleanWord, h]
  cases hsrc : x.source with
  | flush d => exact absurd hsrc (hx d)
  | memRead | cacheSupply => exact ite_self _

theorem State.cleanWord_congr {s t : State} (htxn : t.txn = s.txn) (hmem : t.mem = s.mem) (a : Word) :
    t.cleanWord a = s.cleanWord a := by
  simp only [State.cleanWord, htxn, hmem]

/-! ## The memory's operation outside the bus's turn -/

/-- The memory's operation is the one the transaction in flight waits for, its result not yet there. -/
def State.MemWaits (s : State) : Prop :=
  match s.txn with
  | none => s.memop = none
  | some x =>
    match x.source with
    | .cacheSupply d => s.memop = none ∧ (x.cmd = .busRd → d = s.mem.read x.addr.toNat)
    | .memRead => ∃ n, s.memop = some { kind := .read, addr := x.addr, remaining := n }
    | .flush d => ∃ n, s.memop = some { kind := .write d, addr := x.addr, remaining := n }

theorem State.memMatches_iff_memWaits {s : State} (hr : s.turn ≠ .bus .readCompleted) (hw : s.turn ≠ .bus .writeCompleted) :
    s.MemMatches ↔ s.MemWaits := by
  unfold State.MemMatches State.MemWaits
  cases s.txn with
  | none => exact Iff.rfl
  | some x => cases hsrc : x.source <;> simp [hsrc, hr, hw]

/-- The operation that the memory works on, by the transaction that waits for it. -/
theorem State.MemWaits.cases {s : State} (h : s.MemWaits) :
    s.memop = none ∨
    (∃ x n, s.txn = some x ∧ x.source = .memRead ∧ s.memop = some { kind := .read, addr := x.addr, remaining := n }) ∨
    ∃ x d n, s.txn = some x ∧ x.source = .flush d ∧ s.memop = some { kind := .write d, addr := x.addr, remaining := n } := by
  unfold State.MemWaits at h
  cases hx : s.txn with
  | none => exact .inl (by simpa only [hx] using h)
  | some x =>
    simp only [hx] at h
    cases hsrc : x.source with
    | cacheSupply d =>
      simp only [hsrc] at h
      exact .inl h.1
    | memRead =>
      simp only [hsrc] at h
      obtain ⟨n, hn⟩ := h
      exact .inr (.inl ⟨x, n, rfl, hsrc, hn⟩)
    | flush d =>
      simp only [hsrc] at h
      obtain ⟨n, hn⟩ := h
      exact .inr (.inr ⟨x, d, n, rfl, hsrc, hn⟩)

theorem State.memWaits_congr {s t : State} (htxn : t.txn = s.txn) (hmem : t.mem = s.mem) (hop : t.memop = s.memop) :
    t.MemWaits ↔ s.MemWaits := by
  simp only [State.MemWaits, htxn, hmem, hop]

/-! ## Actions that change no copy -/

/-- Every copy keeps its state, and a Shared one its word. -/
def KeepsCopies (s t : State) : Prop :=
  ∀ k a, t.bits k a = s.bits k a ∧ (s.bits k a = some .shared → t.lineData k a = s.lineData k a)

/-- Coherence speaks of the copies, the transaction, the memory and its operation. -/
theorem State.Coherent.of_keepsCopies {s t : State} (hs : s.Coherent) (hcopies : KeepsCopies s t) (htxn : t.txn = s.txn)
    (hmem : t.mem = s.mem) (hop : t.memop = s.memop) (hturn : ∀ r, s.turn ≠ .bus r) (hturn' : ∀ r, t.turn ≠ .bus r) :
    t.Coherent := by
  obtain ⟨hex, htx, hclean, hmatch⟩ := hs
  refine ⟨fun j k a hjk => ?_, fun x hx j hj => ?_, fun k a hk => ?_, ?_⟩
  · rw [(hcopies j a).1, (hcopies k a).1]
    exact hex j k a hjk
  · rw [(hcopies j x.addr).1]
    exact htx x (htxn ▸ hx) j hj
  · rw [(hcopies k a).1] at hk
    rw [(hcopies k a).2 hk, State.cleanWord_congr htxn hmem]
    exact hclean k a hk
  · rw [State.memMatches_iff_memWaits (hturn' _) (hturn' _), State.memWaits_congr htxn hmem hop,
      ← State.memMatches_iff_memWaits (hturn _) (hturn _)]
    exact hmatch

theorem Core.Acts.copies {ib : Nat} {st : Stage} {c c' : Core} (h : Core.Acts ib st c c') (a : Word) :
    c'.cache.getBits ib a = c.cache.getBits ib a ∧
      (c.cache.getBits ib a = some .shared → c'.cache.getData ib a = c.cache.getData ib a) := by
  cases h with
  | applied => simp
  | recorded => simp
  | halted => simp
  | stored _ b d _ howns =>
    refine ⟨Cache.getBits_write d a howns, fun hshared => Cache.getData_write_of_ne d howns ?_ (by simp [hshared])⟩
    rintro rfl
    rw [(Cache.owns_iff ..).mp howns] at hshared
    cases hshared
  | passed | watched | loaded | missed | held | decoded | redirected | flushed | fetched => exact ⟨rfl, fun _ => rfl⟩

theorem keepsCopies_setCore {s : State} {k : Nat} {st : Stage} {c : Core} (hk : k < s.nCores)
    (h : Core.Acts s.cfg.indexBits st (s.core k) c) : KeepsCopies s (s.setCore k c) := by
  intro j a
  by_cases hj : j = k
  · subst hj
    simp only [State.bits, State.lineData, State.core_setCore_self _ _ _ hk, State.cfg_setCore]
    exact h.copies a
  · simp only [State.bits, State.lineData, State.core_setCore_ne _ _ _ _ hj, State.cfg_setCore]
    exact ⟨trivial, fun _ => trivial⟩

theorem State.cache_consumeWatches (s : State) (k : Nat) (a : Word) (j : Nat) :
    ((s.consumeWatches k a).core j).cache = (s.core j).cache := by
  rw [State.core_consumeWatches]
  split <;> rfl

theorem State.cache_pass (s : State) (k : Nat) (st : Stage) (v : Slot) (j : Nat) : ((s.pass k st v).core j).cache = (s.core j).cache := by
  by_cases hk : k < s.nCores
  · rw [State.pass, State.setSlot, State.core_modCore _ _ _ _ hk]
    split
    · next hj => rw [hj]
    · rfl
  · rw [State.pass, State.setSlot, State.modCore_of_le _ _ _ (Nat.le_of_not_lt hk)]

theorem keepsCopies_of_cache {s t : State} (hcfg : t.cfg = s.cfg) (h : ∀ j, (t.core j).cache = (s.core j).cache) : KeepsCopies s t :=
  fun j a => by simp only [State.bits, State.lineData, h j, hcfg]; exact ⟨trivial, fun _ => trivial⟩

/-! ## The grant -/

section
variable {s w : State} {k : Nat} {q : Request} {src : Source}

/-- A snoop makes no copy Modified and gives no core a copy. -/
theorem Snoop.bits (h : Snoop s k q src w) (hk : k < s.nCores) (i : Nat) (b : Word) :
    (w.bits i b = some .modified → s.bits i b = some .modified) ∧ (s.bits i b = none → w.bits i b = none) := by
  cases h with
  | supplied => exact ⟨id, id⟩
  | read a =>
    rw [State.bits_fetchFromMemory a hk]
    exact ⟨id, id⟩
  | taken a =>
    rw [State.bits_invalidateOthers]
    split
    · exact ⟨nofun, fun _ => rfl⟩
    · exact ⟨id, id⟩
  | readExclusive a =>
    rw [State.bits_invalidateOthers, State.bits_fetchFromMemory a hk]
    split
    · exact ⟨nofun, fun _ => rfl⟩
    · exact ⟨id, id⟩
  | flushed a j hj =>
    rw [State.bits_flushHolder _ hj.2.1]
    split
    · next heq =>
      obtain ⟨rfl, rfl⟩ := heq
      refine ⟨nofun, fun h => ?_⟩
      rw [hj.2.1] at h
      cases h
    · exact ⟨id, id⟩

/-- After the snoop no other core conflicts with the transaction (R146, R147). -/
theorem Snoop.excludes (h : Snoop s k q src w) (hk : k < s.nCores) (hex : s.Exclusive) {i : Nat} (hi : i ≠ k) :
    w.bits i q.addr ≠ some .modified ∧ (q.cmd = .busRdX → w.bits i q.addr = none) := by
  cases h with
  | supplied a j hm => exact ⟨hm i hi, nofun⟩
  | read a hm =>
    rw [State.bits_fetchFromMemory a hk]
    exact ⟨hm i hi, nofun⟩
  | taken a =>
    rw [State.bits_invalidateOthers, if_pos ⟨hi, rfl⟩]
    exact ⟨nofun, fun _ => rfl⟩
  | readExclusive a =>
    rw [State.bits_invalidateOthers, if_pos ⟨hi, rfl⟩]
    exact ⟨nofun, fun _ => rfl⟩
  | flushed a j hj =>
    refine ⟨?_, nofun⟩
    rw [State.bits_flushHolder _ hj.2.1]
    by_cases hij : i = j
    · rw [if_pos ⟨hij, rfl⟩]
      exact nofun
    · rw [if_neg fun h => hij h.1, hex j i a (Ne.symm hij) hj.2.1]
      exact nofun

/-- The word that a Shared copy holds after the snoop: the one being flushed, or, as before, memory's. -/
theorem Snoop.clean (h : Snoop s k q src w) (hk : k < s.nCores) (hex : s.Exclusive)
    (hclean : ∀ i b, s.bits i b = some .shared → s.lineData i b = s.mem.read b.toNat) {i : Nat} {b : Word}
    (hb : w.bits i b = some .shared) :
    s.lineData i b = match src with
      | .flush d => if q.addr = b then d else s.mem.read b.toNat
      | .memRead => s.mem.read b.toNat
      | .cacheSupply _ => s.mem.read b.toNat := by
  cases h with
  | supplied => exact hclean i b hb
  | read a =>
    rw [State.bits_fetchFromMemory a hk] at hb
    exact hclean i b hb
  | taken a =>
    rw [State.bits_invalidateOthers] at hb
    split at hb
    · cases hb
    · exact hclean i b hb
  | readExclusive a =>
    rw [State.bits_invalidateOthers, State.bits_fetchFromMemory a hk] at hb
    split at hb
    · cases hb
    · exact hclean i b hb
  | flushed a j hj =>
    rw [State.bits_flushHolder _ hj.2.1] at hb
    dsimp only
    by_cases hab : a = b
    · subst hab
      rw [if_pos rfl]
      by_cases hij : i = j
      · rw [hij]
      · rw [if_neg fun h => hij h.1, hex j i a (Ne.symm hij) hj.2.1] at hb
        cases hb
    · rw [if_neg fun h => hab h.2.symm] at hb
      rw [if_neg hab]
      exact hclean i b hb

/-- The memory's operation after the snoop of an idle memory is the one its source waits for; a Shared supplier supplies memory's word. -/
theorem Snoop.memop (h : Snoop s k q src w) (hidle : s.memop = none)
    (hclean : ∀ i b, s.bits i b = some .shared → s.lineData i b = s.mem.read b.toNat) :
    match src with
    | .cacheSupply d => w.memop = none ∧ (q.cmd = .busRd → d = s.mem.read q.addr.toNat)
    | .memRead => ∃ n, w.memop = some { kind := .read, addr := q.addr, remaining := n }
    | .flush d => ∃ n, w.memop = some { kind := .write d, addr := q.addr, remaining := n } := by
  cases h with
  | supplied a j _ hj => exact ⟨hidle, fun _ => hclean j a hj.2.1⟩
  | read a => exact ⟨_, State.memop_fetchFromMemory k a hidle⟩
  | taken a => exact ⟨hidle, nofun⟩
  | readExclusive a => exact ⟨_, State.memop_fetchFromMemory k a hidle⟩
  | flushed a j => exact ⟨_, State.memop_flushHolder j a _ hidle⟩

end

/-- A grant on an idle bus keeps coherence, whoever has the next turn but the bus. -/
theorem State.Coherent.grant {s : State} (hs : s.Coherent) (hidle : s.txn = none) (k : Nat) {u : Turn} (hu : ∀ r, u ≠ .bus r) :
    ((s.grant k).give u).Coherent := by
  obtain ⟨hex, -, hclean, hmatch⟩ := hs
  have hmemop : s.memop = none := by simpa only [State.MemMatches, hidle] using hmatch
  have hclean' : ∀ i b, s.bits i b = some .shared → s.lineData i b = s.mem.read b.toNat := fun i b hb =>
    (hclean i b hb).trans (State.cleanWord_of_idle hidle b)
  cases hq : (s.core k).pend with
  | none =>
    rw [State.grant_of_no_pend hq]
    refine ⟨hex, fun x hx => ?_, hclean, ?_⟩
    · rw [State.txn_give, hidle] at hx
      cases hx
    · rw [State.memMatches_iff_memWaits (hu _) (hu _)]
      simpa only [State.MemWaits, State.txn_give, State.memop_give, hidle] using hmemop
  | some q =>
    have hk := State.lt_of_pend hq
    have hdata : ∀ i b, ((s.grant k).give u).lineData i b = s.lineData i b := fun i b => s.lineData_grant k i b
    have hmem : ((s.grant k).give u).mem = s.mem := (s.grant_sameBesideBus k).2.1
    have hsnoop := s.snoop_cases k q
    have hgrant := State.grant_of_snoop hq (s.snoop k q).eta.symm
    generalize s.snoop k q = r at hsnoop hgrant
    obtain ⟨src, w⟩ := r
    generalize hx : { owner := k, cmd := q.cmd, addr := q.addr, source := src : Txn } = x at hgrant
    have htxn : ((s.grant k).give u).txn = some x := by
      rw [hgrant]
      rfl
    have hop : ((s.grant k).give u).memop = w.memop := by
      rw [hgrant]
      rfl
    have hbits : ∀ i b, ((s.grant k).give u).bits i b = w.bits i b := fun i b => by
      rw [hgrant]
      rfl
    have hturn : ∀ r, ((s.grant k).give u).turn ≠ .bus r := hu
    generalize (s.grant k).give u = t at hdata hmem htxn hop hbits hturn ⊢
    refine ⟨fun i j b hij hb => ?exclusive, fun y hy i hi => ?txnExclusive, fun i b hb => ?clean, ?memMatches⟩
    case exclusive =>
      rw [hbits] at hb ⊢
      exact (hsnoop.bits hk j b).2 (hex i j b hij ((hsnoop.bits hk i b).1 hb))
    case txnExclusive =>
      rw [htxn] at hy
      cases hy
      subst hx
      simp only [hbits]
      exact hsnoop.excludes hk hex hi
    case clean =>
      rw [hbits] at hb
      rw [hdata, hsnoop.clean hk hex hclean' hb]
      subst hx
      cases src with
      | flush d => rw [State.cleanWord_of_flush htxn rfl, hmem]
      | memRead | cacheSupply => rw [State.cleanWord_of_no_flush htxn nofun, hmem]
    case memMatches =>
      have hmemop' := hsnoop.memop hmemop hclean'
      rw [State.memMatches_iff_memWaits (hturn _) (hturn _)]
      simp only [State.MemWaits, htxn, hop, hmem]
      subst hx
      cases src <;> exact hmemop'

/-! ## The completion -/

/-- A copy after a completion is the installed one, or it was there before, or it is gone with the line it was in. -/
theorem State.copy_complete {s : State} (hs : s.Shaped) (x : Txn) (d : Word) (i : Nat) (b : Word) :
    (i = x.owner ∧ b = x.addr ∧ (s.complete x d).bits i b = some (if x.cmd = .busRdX then .modified else .shared) ∧
      (s.complete x d).lineData i b = d) ∨
    (s.complete x d).bits i b = none ∨
    ((s.complete x d).bits i b = s.bits i b ∧ (s.complete x d).lineData i b = s.lineData i b) := by
  by_cases ho : x.owner < s.nCores
  · have hlen := hs.length_lines ho
    by_cases hi : i = x.owner
    · subst hi
      by_cases hb : b = x.addr
      · subst hb
        exact .inl ⟨rfl, rfl, State.bits_complete_self ho hlen, State.lineData_complete_self ho hlen⟩
      · by_cases hidx : lineIndex s.cfg.indexBits b = lineIndex s.cfg.indexBits x.addr
        · refine .inr (.inl ?_)
          change ((s.complete x d).core x.owner).cache.getBits s.cfg.indexBits b = none
          rw [State.core_complete d ho, if_pos rfl]
          exact Cache.getBits_install_displaced d _ hlen hb hidx
        · exact .inr (.inr ⟨Cache.getBits_congr (State.line_complete_of_ne ho hlen hidx),
            congrArg Line.data (State.line_complete_of_ne ho hlen hidx)⟩)
    · have hcore := State.core_complete (s := s) d ho i
      rw [if_neg hi] at hcore
      exact .inr (.inr ⟨congrArg (fun c => c.cache.getBits s.cfg.indexBits b) hcore,
        congrArg (fun c => c.cache.getData s.cfg.indexBits b) hcore⟩)
  · have hcore := State.core_complete_of_le (s := s) d (Nat.le_of_not_lt ho) i
    exact .inr (.inr ⟨congrArg (fun c => c.cache.getBits s.cfg.indexBits b) hcore,
      congrArg (fun c => c.cache.getData s.cfg.indexBits b) hcore⟩)

/-- When the data of the transaction is there, the memory is idle, every clean word is memory's, and so is the data of a BusRd. -/
theorem State.MemMatches.ready {s : State} (hs : s.MemMatches) {r : MemResult} (ht : s.turn = .bus r) {x : Txn} {d : Word}
    (hx : s.txn = some x)
    (h : x.source = .cacheSupply d ∨ (x.source = .memRead ∧ r = .readCompleted ∧ d = s.memStaged) ∨
      (x.source = .flush d ∧ r = .writeCompleted)) :
    s.memop = none ∧ (∀ a, s.cleanWord a = s.mem.read a.toNat) ∧ (x.cmd = .busRd → d = s.mem.read x.addr.toNat) := by
  unfold State.MemMatches at hs
  simp only [hx] at hs
  obtain hsrc | ⟨hsrc, rfl, rfl⟩ | ⟨hsrc, rfl⟩ := h <;> simp only [hsrc, ht, ne_eq, not_true_eq_false, false_and, true_and, or_false] at hs
  · exact ⟨hs.1, State.cleanWord_of_no_flush hx (by simp [hsrc]), hs.2⟩
  · exact ⟨hs.1, State.cleanWord_of_no_flush hx (by simp [hsrc]), fun _ => hs.2⟩
  · refine ⟨hs.1, fun a => ?_, fun _ => hs.2.symm⟩
    rw [State.cleanWord_of_flush hx hsrc]
    split
    · next ha => rw [← ha, hs.2]
    · rfl

/-- A completion keeps coherence: the owner's conflicts were excluded at the grant, and its data is clean. -/
theorem State.Coherent.complete {s : State} (hs : s.Coherent) (hshape : s.Shaped) {r : MemResult} (ht : s.turn = .bus r) {x : Txn}
    {d : Word} (hx : s.txn = some x)
    (h : x.source = .cacheSupply d ∨ (x.source = .memRead ∧ r = .readCompleted ∧ d = s.memStaged) ∨
      (x.source = .flush d ∧ r = .writeCompleted)) : ((s.complete x d).give .tickStart).Coherent := by
  obtain ⟨hex, htx, hclean, hmatch⟩ := hs
  obtain ⟨hidle, hword, hdata⟩ := hmatch.ready ht hx h
  have hcopy := State.copy_complete hshape x d
  refine ⟨fun i j b hij hb => ?exclusive, nofun, fun i b hb => ?clean, hidle⟩
  case exclusive =>
    rw [State.bits_give] at hb ⊢
    obtain ⟨rfl, rfl, hnew, -⟩ | hnone | ⟨hold, -⟩ := hcopy i b
    · have hcmd : x.cmd = .busRdX := by
        by_contra hne
        rw [hnew, if_neg hne] at hb
        cases hb
      obtain ⟨rfl, -⟩ | hnone | ⟨hold, -⟩ := hcopy j x.addr
      · exact absurd rfl hij
      · exact hnone
      · rw [hold]
        exact (htx x hx j (Ne.symm hij)).2 hcmd
    · rw [hnone] at hb
      cases hb
    · rw [hold] at hb
      obtain ⟨rfl, rfl, -⟩ | hnone | ⟨hold', -⟩ := hcopy j b
      · exact absurd hb (htx x hx i hij).1
      · exact hnone
      · rw [hold']
        exact hex i j b hij hb
  case clean =>
    rw [State.bits_give] at hb
    rw [State.lineData_give, State.cleanWord_of_idle rfl]
    obtain ⟨rfl, rfl, hnew, hdata'⟩ | hnone | ⟨hold, hdata'⟩ := hcopy i b
    · have hcmd : x.cmd = .busRd := by
        cases hc : x.cmd with
        | busRd => rfl
        | busRdX =>
          rw [hnew, if_pos hc] at hb
          cases hb
      exact hdata'.trans (hdata hcmd)
    · rw [hnone] at hb
      cases hb
    · rw [hold] at hb
      exact hdata'.trans ((hclean i b hb).trans (hword b))

/-! ## The memory tick -/

theorem keepsCopies_memTick (s : State) : KeepsCopies s s.memTick.2 :=
  keepsCopies_of_cache s.cfg_memTick fun j => by rw [State.core_memTick]

/-- After the memory tick the operation goes on or its result is there for the bus, and what a clean word is has not changed. -/
theorem State.memMatches_memTick {s : State} (hshape : s.Shaped) (hwaits : s.MemWaits) :
    (s.memTick.2.give (.bus s.memTick.1)).MemMatches ∧ ∀ a, s.memTick.2.cleanWord a = s.cleanWord a := by
  obtain hop | ⟨x, n, hx, hsrc, hop⟩ | ⟨x, d, n, hx, hsrc, hop⟩ := hwaits.cases
  · have htick : s.memTick = (.noOp, s) := by simp only [State.memTick, hop]
    rw [htick]
    exact ⟨(State.memMatches_iff_memWaits (by simp) (by simp)).mpr hwaits, fun _ => rfl⟩
  · by_cases hn : 1 < n
    · rw [State.memTick_counting hop hn]
      refine ⟨(State.memMatches_iff_memWaits (by simp) (by simp)).mpr ?_, State.cleanWord_congr rfl rfl⟩
      simp [State.MemWaits, hx, hsrc]
    · rw [State.memTick_read hop (Nat.le_of_not_lt hn)]
      refine ⟨?_, State.cleanWord_congr rfl rfl⟩
      simp [State.MemMatches, hx, hsrc]
  · by_cases hn : 1 < n
    · rw [State.memTick_counting hop hn]
      refine ⟨(State.memMatches_iff_memWaits (by simp) (by simp)).mpr ?_, State.cleanWord_congr rfl rfl⟩
      simp [State.MemWaits, hx, hsrc]
    · rw [State.memTick_write hop (Nat.le_of_not_lt hn)]
      have hread := Memory.read_write s.mem hshape.1 x.addr.toNat
      refine ⟨?_, fun a => ?_⟩
      · simp [State.MemMatches, hx, hsrc, hread]
      · rw [State.cleanWord_of_flush hx hsrc, State.cleanWord_of_flush (s := { s with memop := none, mem := _ }) hx hsrc]
        split
        · rfl
        · next hne => exact (hread a.toNat d).trans (if_neg fun h => hne (BitVec.eq_of_toNat_eq h.symm))

/-- The memory tick keeps coherence: the word it writes is the one being flushed. -/
theorem State.Coherent.memTick {s : State} (hs : s.Coherent) (hshape : s.Shaped) (ht : s.turn = .memory) :
    (s.memTick.2.give (.bus s.memTick.1)).Coherent := by
  obtain ⟨hex, htx, hclean, hmatch⟩ := hs
  have hcopies := keepsCopies_memTick s
  obtain ⟨hmatch', hword⟩ := State.memMatches_memTick hshape ((State.memMatches_iff_memWaits (by simp [ht]) (by simp [ht])).mp hmatch)
  refine ⟨fun j k a hjk hb => ?_, fun x hx j hj => ?_, fun k a hk => ?_, hmatch'⟩
  · rw [State.bits_give, (hcopies _ _).1] at hb ⊢
    exact hex j k a hjk hb
  · rw [State.bits_give, (hcopies _ _).1]
    exact htx x (s.memTick_txn_events.1 ▸ hx) j hj
  · rw [State.bits_give, (hcopies _ _).1] at hk
    rw [State.lineData_give, (hcopies k a).2 hk]
    exact (hclean k a hk).trans (hword a).symm

/-! ## The bus tick and the stages -/

/-- When the bus tick leaves the transaction waiting, its result is not there, so the memory is still at it. -/
theorem State.MemMatches.waiting {s : State} (hs : s.MemMatches) {r : MemResult} (ht : s.turn = .bus r) {x : Txn} (hx : s.txn = some x)
    (h : (x.source = .memRead ∧ r ≠ .readCompleted) ∨ (∃ d, x.source = .flush d ∧ r ≠ .writeCompleted)) : s.MemWaits := by
  unfold State.MemMatches at hs
  unfold State.MemWaits
  simp only [hx] at hs ⊢
  obtain ⟨hsrc, hr⟩ | ⟨d, hsrc, hr⟩ := h
  · simpa [hsrc, ht, hr] using hs
  · simpa [hsrc, ht, hr] using hs

theorem State.Coherent.busTick {s : State} (hs : s.Coherent) (hshape : s.Shaped) {r : MemResult} (ht : s.turn = .bus r) :
    ((s.busTick r).give .tickStart).Coherent := by
  have hstays : s.MemWaits → (s.give .tickStart).Coherent := fun hwaits => by
    obtain ⟨hex, htx, hclean, -⟩ := hs
    exact ⟨hex, htx, hclean, (State.memMatches_iff_memWaits (by simp) (by simp)).mpr hwaits⟩
  obtain ⟨x, d, hx, h, hready⟩ | ⟨x, hx, h, hwait⟩ | ⟨j, hx, -, h⟩ | ⟨hx, -, h⟩ := s.busTick_cases r <;> rw [h]
  · exact hs.complete hshape ht hx hready
  · exact hstays (hs.2.2.2.waiting ht hx hwait)
  · exact hs.grant hx j nofun
  · refine hstays ?_
    have hidle := hs.2.2.2
    unfold State.MemMatches at hidle
    unfold State.MemWaits
    simpa only [hx] using hidle

theorem StageStep.coherent {k : Nat} {st : Stage} {s t : State} (h : StageStep k st s t) (hs : s.Coherent) (hturn : s.turn = .stage k st)
    {u : Turn} (hu : ∀ r, u ≠ .bus r) : (t.give u).Coherent := by
  have hstage : ∀ r, s.turn ≠ .bus r := by simp [hturn]
  cases h with
  | outside => exact hs.of_keepsCopies (keepsCopies_of_cache rfl fun _ => rfl) rfl rfl rfl hstage hu
  | idle => exact hs.of_keepsCopies (keepsCopies_of_cache rfl fun _ => rfl) rfl rfl rfl hstage hu
  | acted _ _ c hk _ hc => exact hs.of_keepsCopies (t := (s.setCore k c).give u) (keepsCopies_setCore hk hc) rfl rfl rfl hstage hu
  | consumed _ a v =>
    refine hs.of_keepsCopies (keepsCopies_of_cache rfl fun j => ?_) rfl rfl rfl hstage hu
    rw [State.core_give, State.cache_pass, State.cache_consumeWatches]
  | granted _ q n hk hslot hidle =>
    have hmissed : (s.setCore k ((s.core k).awaiting q n)).Coherent :=
      hs.of_keepsCopies (keepsCopies_setCore hk (.missed _ q n)) rfl rfl rfl hstage hstage
    exact hmissed.grant hidle k hu

/-- Settles O51: each action keeps the invariant. -/
theorem stepKeepsCoherence : Obligations.StepKeepsCoherence := by
  intro s t hshape hs h
  have hkept : ∀ {u : State}, (∀ j, (u.core j).cache = (s.core j).cache) → u.cfg = s.cfg → u.txn = s.txn → u.mem = s.mem →
      u.memop = s.memop → (∀ r, s.turn ≠ .bus r) → (∀ r, u.turn ≠ .bus r) → u.Coherent := fun hcache hcfg htxn hmem hop hturn hturn' =>
    hs.of_keepsCopies (keepsCopies_of_cache hcfg hcache) htxn hmem hop hturn hturn'
  obtain ⟨ht, -, rfl⟩ | ⟨ht, -, -, rfl⟩ | ⟨k, ht, -, -, rfl⟩ | ⟨k, ht, hk, -, rfl⟩ | ⟨k, ht, -, rfl⟩ | ⟨k, st, u, ht, hu, rfl⟩ |
    ⟨ht, rfl⟩ | ⟨r, ht, rfl⟩ := step_cases s t h
  · exact hs
  · exact hkept (fun _ => rfl) rfl rfl rfl rfl (by simp [ht]) (by simp)
  · exact hkept (fun _ => rfl) rfl rfl rfl rfl (by simp [ht]) (by simp)
  · refine hkept (fun j => ?_) rfl rfl rfl rfl (by simp [ht]) (by simp)
    rw [State.core_give, State.core_modCore _ _ _ _ hk]
    split
    · next hj => rw [hj, Core.cache_beginCycle]
    · rfl
  · exact hkept (fun _ => rfl) rfl rfl rfl rfl (by simp [ht]) (by simp)
  · exact (stageStep_of_next ht hu).coherent hs ht (by cases st <;> exact nofun)
  · exact hs.memTick hshape ht
  · exact hs.busTick hshape ht

/-! ## In the words of the spec -/

/-- Settles O52. -/
theorem coherenceInTheSpecsWords : Obligations.CoherenceInTheSpecsWords := by
  rintro s ⟨hex, -, hclean, hmatch⟩
  refine ⟨fun j k a hj hk => ?_, hex, fun j k a hj hk => (hclean j a hj).trans (hclean k a hk).symm, fun hidle => ⟨?_, fun k a hk => ?_⟩⟩
  · by_contra hjk
    rw [hex j k a hjk hj] at hk
    cases hk
  · unfold State.MemMatches at hmatch
    simpa only [hidle] using hmatch
  · rw [hclean k a hk, State.cleanWord_of_idle hidle]

/-! ## The state at reset (R39) -/

section
variable {c : Config} {programs : List (List Word)} {image : Memory}

/-- Every core at reset is one that has its program loaded. -/
theorem State.mem_cores_boot {x : Core} : x ∈ (State.boot c programs image).cores ↔ ∃ p ∈ programs, Core.reset c p = x :=
  List.mem_map

theorem State.core_boot (k : Nat) : ∃ p, (State.boot c programs image).core k = Core.reset c p := by
  by_cases hk : k < (State.boot c programs image).nCores
  · obtain ⟨p, -, hp⟩ := State.mem_cores_boot.mp ((State.mem_cores _ _).mpr ⟨k, hk, rfl⟩)
    exact ⟨p, hp.symm⟩
  · exact ⟨[], State.core_of_le _ k (Nat.le_of_not_lt hk)⟩

theorem State.bits_boot (k : Nat) (a : Word) : (State.boot c programs image).bits k a = none := by
  obtain ⟨p, hp⟩ := State.core_boot (c := c) (programs := programs) (image := image) k
  rw [State.bits, hp, Cache.getBits_eq_none_iff, Core.hasCopy_reset]

theorem Core.hardWired_reset (p : List Word) : (Core.reset c p).HardWired := ⟨rfl, rfl, nofun⟩

theorem Core.shaped_reset (p : List Word) : (Core.reset c p).Shaped c.nLines := ⟨rfl, List.length_replicate⟩

theorem Core.legal_reset {p : List Word} (hp : ProgramLegal p) : (Core.reset c p).Legal :=
  ⟨fun st => by cases st <;> exact trivial, hp⟩

theorem Core.controlled_reset (p : List Word) : (Core.reset c p).Controlled :=
  ⟨⟨rfl, rfl, rfl, rfl, rfl, rfl, rfl, rfl, rfl⟩, Nat.zero_le 3⟩

end

/-- Settles O53: every core is at reset, no line holds a copy, and the bus and the memory are idle. -/
theorem bootMeetsTheInvariants : Obligations.BootMeetsTheInvariants := by
  intro c programs image himage hlegal
  refine ⟨fun hc hne => ?parameters, fun x hx => ?hardWired, ⟨himage, fun x hx => ?shaped⟩, fun x hx => ?legal,
    ⟨fun x hx => ?controlled, nofun, fun k _ hb => ?branchFlag⟩, ?coherent, fun k _ r => ?registers⟩
  case parameters =>
    have hcores : 1 ≤ (State.boot c programs image).nCores := by
      rw [State.nCores, State.boot, List.length_map]
      exact List.length_pos_of_ne_nil hne
    simp only [State.parametersOk, Bool.and_eq_true, decide_eq_true_eq, List.all_eq_true]
    refine ⟨⟨hc, hcores⟩, fun x hx => ?_⟩
    obtain ⟨p, hp, rfl⟩ := State.mem_cores_boot.mp hx
    exact List.length_pos_of_ne_nil (hlegal p hp).1
  case hardWired =>
    obtain ⟨p, -, rfl⟩ := State.mem_cores_boot.mp hx
    exact Core.hardWired_reset p
  case shaped =>
    obtain ⟨p, -, rfl⟩ := State.mem_cores_boot.mp hx
    exact Core.shaped_reset p
  case legal =>
    obtain ⟨p, hp, rfl⟩ := State.mem_cores_boot.mp hx
    exact Core.legal_reset (hlegal p hp)
  case controlled =>
    obtain ⟨p, -, rfl⟩ := State.mem_cores_boot.mp hx
    exact Core.controlled_reset p
  case branchFlag =>
    obtain ⟨p, hp⟩ := State.core_boot (c := c) (programs := programs) (image := image) k
    rw [hp] at hb
    cases hb
  case coherent =>
    exact ⟨fun _ k a _ _ => State.bits_boot k a, nofun, fun k a hk => absurd hk (by simp [State.bits_boot]), rfl⟩
  case registers =>
    obtain ⟨p, hp⟩ := State.core_boot (c := c) (programs := programs) (image := image) k
    rw [State.reg, hp]
    exact Vector.getElem_replicate r.isLt

end Sys2Proof.Machine
end

section
/-! PROOFS. Whole-machine rules (53_memory_unit.md section 2, 60_exceptions.md section 2): the clock, the load-time check, the end of the run, and that
the steps of a tick are the global tick of R163. -/

namespace Sys2Proof.Machine

/-! ## The clock -/

@[simp] theorem State.cycle_memTick (s : State) : s.memTick.2.cycle = s.cycle := by
  unfold State.memTick
  split
  · rfl
  · split
    · rfl
    · split <;> rfl

/-- Settles O57: the start of a tick is the one action that writes `cycle`. -/
theorem cycleCountsTicks : Obligations.CycleCountsTicks := by
  intro s t h
  obtain ⟨ht, hd, rfl⟩ | ⟨ht, hd, -, rfl⟩ | ⟨k, ht, -, -, rfl⟩ | ⟨k, ht, -, -, rfl⟩ | ⟨k, ht, -, rfl⟩ | ⟨k, st, u, ht, hu, rfl⟩ |
    ⟨ht, rfl⟩ | ⟨r, ht, rfl⟩ := step_cases s t h
  · simp [hd]
  · simp [ht, hd]
  · simp [ht]
  · simp [ht]
  · simp [ht]
  · simpa [ht] using (stageStep_of_next ht hu).sameBesideBus.2.2.2.1
  · simp [ht]
  · simpa [ht] using (s.busTick_sameBesideBus r).2.2.2.1

/-! ## The load-time check (R168) -/

/-- The illegal word that is reported is a word of the program. -/
theorem firstIllegal_eq_some {m n : Nat} {x : Illegal} {ws : List Word} (h : firstIllegal m ws = some (n, x)) :
    ∃ j w, n = m + j ∧ ws[j]? = some w ∧ decodeWord w = .error x := by
  induction ws generalizing m with
  | nil => cases h
  | cons w ws ih =>
    cases hd : decodeWord w with
    | error e =>
      simp only [firstIllegal, hd, Option.some.injEq, Prod.mk.injEq] at h
      obtain ⟨rfl, rfl⟩ := h
      exact ⟨0, w, rfl, rfl, hd⟩
    | ok i =>
      simp only [firstIllegal, hd] at h
      obtain ⟨j, w', rfl, hw', hx⟩ := ih h
      exact ⟨j + 1, w', by omega, hw', hx⟩

/-- A rejected program is empty or has the illegal word that is reported. -/
theorem programProblem_eq_some {ws : List Word} {n : Nat} {e : LoadReason} (h : programProblem ws = some (n, e)) :
    (e = .emptyProgram ∧ n = 0 ∧ ws = []) ∨ ∃ w x, e = .illegalWord x ∧ ws[n]? = some w ∧ decodeWord w = .error x := by
  unfold programProblem at h
  split at h
  · next hnil =>
    cases h
    exact .inl ⟨rfl, rfl, hnil⟩
  · obtain ⟨⟨m, x⟩, hp, heq⟩ := Option.map_eq_some_iff.mp h
    cases heq
    obtain ⟨j, w, rfl, hw, hx⟩ := firstIllegal_eq_some hp
    exact .inr ⟨w, x, rfl, by rw [Nat.zero_add]; exact hw, hx⟩

/-- The rejected core that is reported is a core whose program is rejected. -/
theorem firstRejected_eq_some {m k n : Nat} {e : LoadReason} {cs : List Core} (h : firstRejected m cs = some (k, n, e)) :
    ∃ j c, k = m + j ∧ cs[j]? = some c ∧ programProblem c.imem = some (n, e) := by
  induction cs generalizing m with
  | nil => cases h
  | cons c cs ih =>
    cases hp : programProblem c.imem with
    | some p =>
      simp only [firstRejected, hp, Option.some.injEq, Prod.mk.injEq] at h
      obtain ⟨rfl, rfl⟩ := h
      exact ⟨0, c, rfl, rfl, hp⟩
    | none =>
      simp only [firstRejected, hp] at h
      obtain ⟨j, c', rfl, hc', hp'⟩ := ih h
      exact ⟨j + 1, c', by omega, hc', hp'⟩

theorem State.loadProblem_eq_some {s : State} {k n : Nat} {e : LoadReason} (h : s.loadProblem = some (k, n, e)) :
    k < s.nCores ∧ programProblem (s.core k).imem = some (n, e) := by
  obtain ⟨j, c, rfl, hc, hp⟩ := firstRejected_eq_some h
  rw [Nat.zero_add]
  obtain ⟨hj, hcj⟩ := List.getElem?_eq_some_iff.mp hc
  refine ⟨hj, ?_⟩
  rw [State.core, List.getD_eq_getElem?_getD, hc]
  exact hp

/-- The step at a tick's start of a run that has not ended. -/
theorem step_tickStart {s : State} (ht : s.turn = .tickStart) (hd : s.allDrained = false) :
    step s = match s.loadProblem with
      | some (k, n, e) => .refused (.loadFatal k n e)
      | none => .next ({ s with cycle := s.cycle + 1 }.give (.cycleStart 0)) := by
  cases hl : s.loadProblem <;>
    simp only [step, nextAction, ht, tickStartAction, hd, hl, Bool.false_eq_true, if_false]

/-- Settles O58: the check finds no problem exactly when every program is legal, and what it reports holds. -/
theorem rejectedProgramDoesNotStart : Obligations.RejectedProgramDoesNotStart := by
  intro s ht hd
  refine ⟨?_, fun hlegal => ?_⟩
  · rintro ⟨c, hc, hbad⟩
    cases hl : s.loadProblem with
    | none =>
      obtain ⟨hne, hwords⟩ := s.loadProblem_eq_none.mp hl c hc
      obtain hnil | ⟨w, hw, hw'⟩ := hbad
      · exact absurd hnil hne
      · obtain ⟨i, hi⟩ := hwords w hw
        exact absurd hi (hw' i)
    | some p =>
      obtain ⟨k, n, e⟩ := p
      obtain ⟨hk, hp⟩ := State.loadProblem_eq_some hl
      exact ⟨k, n, e, by rw [step_tickStart ht hd, hl], rfl, hk, programProblem_eq_some hp⟩
  · rw [step_tickStart ht hd, s.loadProblem_eq_none.mpr hlegal]

/-! ## The end of the run (R164) -/

/-- `n` steps, stopping at the first stop: the host's run of this machine. -/
def runSteps : Nat → State → Result
  | 0, s => .next s
  | n + 1, s => onNext (step s) (runSteps n)

theorem run_of_next {M : Host.Core} {s t : M.State} (n : Nat) (h : M.step s = .next t) : M.run (n + 1) s = M.run n t := by
  rw [Host.Core.run, h]

theorem run_of_fault {M : Host.Core} {s : M.State} {e : M.Fault} (n : Nat) (h : M.step s = .fault e) :
    M.run (n + 1) s = .fault e := by
  rw [Host.Core.run, h]

theorem run_of_refused {M : Host.Core} {s : M.State} {e : M.Refusal} (n : Nat) (h : M.step s = .refused e) :
    M.run (n + 1) s = .refused e := by
  rw [Host.Core.run, h]

theorem run_eq_runSteps (n : Nat) (s : State) : Host.Core.run Sys2Proof.core n s = runSteps n s := by
  induction n generalizing s with
  | zero => rfl
  | succ n ih =>
    cases hs : step s with
    | next t =>
      have hsteps : runSteps (n + 1) s = runSteps n t := by rw [runSteps, hs, onNext_next]
      exact ((run_of_next (M := Sys2Proof.core) n hs).trans (ih t)).trans hsteps.symm
    | fault e =>
      have hsteps : runSteps (n + 1) s = .fault e := by rw [runSteps, hs, onNext_fault]
      exact (run_of_fault (M := Sys2Proof.core) n hs).trans hsteps.symm
    | refused e =>
      have hsteps : runSteps (n + 1) s = .refused e := by rw [runSteps, hs, onNext_refused]
      exact (run_of_refused (M := Sys2Proof.core) n hs).trans hsteps.symm

/-- Settles O59: a step at a tick's start of a run that has ended leaves the state as it is. -/
theorem endedRunStays : Obligations.EndedRunStays := by
  intro s n ht hd
  have hstep : step s = .next s := by simp only [step, nextAction, ht, tickStartAction, hd, if_true]
  suffices h : runSteps n s = .next s from (run_eq_runSteps n s).trans h
  induction n with
  | zero => rfl
  | succ n ih => rw [runSteps, hstep, onNext_next, ih]

/-! ## The steps of a tick -/

theorem onNext_assoc (r : Result) (f g : State → Result) : onNext (onNext r f) g = onNext r fun s => onNext (f s) g := by
  cases r <;> rfl

theorem onNext_congr {r : Result} {f g : State → Result} (h : ∀ t, r = .next t → f t = g t) : onNext r f = onNext r g := by
  cases r with
  | next t => exact h t rfl
  | fault | refused => rfl

theorem runSteps_add (m n : Nat) (s : State) : runSteps (m + n) s = onNext (runSteps m s) (runSteps n) := by
  induction m generalizing s with
  | zero => rw [Nat.zero_add, runSteps, onNext_next]
  | succ m ih =>
    rw [Nat.add_right_comm, runSteps, runSteps, onNext_assoc]
    exact onNext_congr fun t _ => ih t

theorem runSteps_one (s : State) : runSteps 1 s = step s := by
  rw [runSteps]
  cases step s <;> rfl

/-- The step of a stage: the stage in turn, and the turn passed on. -/
theorem step_stage (k : Nat) (st : Stage) (s : State) :
    step (s.give (.stage k st)) = onNext (stageInTurn k st s) fun t => .next (t.give (st.turnAfter k)) := rfl

/-- The steps of a core's five stages are its pipeline cycle (R112). -/
theorem runSteps_pipelineCycle (k : Nat) (s : State) :
    runSteps 5 ((s.modCore k Core.beginCycle).give (.stage k .writeBack)) =
      onNext (pipelineCycle k s) fun t => .next (t.give (.cycleStart (k + 1))) := by
  simp only [pipelineCycle, onNext_assoc]
  rw [runSteps, step_stage, onNext_assoc]
  refine onNext_congr fun t1 _ => ?_
  rw [onNext_next, Stage.turnAfter, runSteps, step_stage, onNext_assoc]
  refine onNext_congr fun t2 _ => ?_
  rw [onNext_next, Stage.turnAfter, runSteps, step_stage, onNext_assoc]
  refine onNext_congr fun t3 _ => ?_
  rw [onNext_next, Stage.turnAfter, runSteps, step_stage, onNext_assoc]
  refine onNext_congr fun t4 _ => ?_
  rw [onNext_next, Stage.turnAfter, runSteps_one, step_stage]
  rfl

/-- How many steps a core's part of a tick takes: one to pass it over, six for a pipeline cycle. -/
def coreSteps (c : Core) : Nat := if c.drained then 1 else 6

theorem runSteps_coreCycle {k : Nat} {s : State} (hk : k < s.nCores) :
    runSteps (coreSteps (s.core k)) (s.give (.cycleStart k)) =
      onNext (if (s.core k).drained then .next s else pipelineCycle k s) fun t => .next (t.give (.cycleStart (k + 1))) := by
  have hstep : step (s.give (.cycleStart k)) =
      if (s.core k).drained then .next (s.give (.cycleStart (k + 1)))
      else .next ((s.modCore k Core.beginCycle).give (.stage k .writeBack)) :=
    if_pos hk
  cases hd : (s.core k).drained with
  | true =>
    simp only [hd, if_true] at hstep
    simp only [coreSteps, hd, if_true, onNext_next]
    rw [runSteps_one, hstep]
  | false =>
    simp only [hd, Bool.false_eq_true, if_false] at hstep
    simp only [coreSteps, hd, Bool.false_eq_true, if_false]
    rw [runSteps, hstep, onNext_next, runSteps_pipelineCycle]

/-- A core's pipeline cycle leaves the number of cores, and which of the other cores have drained. -/
def KeepsOthersDrained (k : Nat) (s t : State) : Prop :=
  t.nCores = s.nCores ∧ ∀ j, j ≠ k → (t.core j).drained = (s.core j).drained

theorem KeepsOthersDrained.trans {k : Nat} {s t u : State} (h : KeepsOthersDrained k s t) (h' : KeepsOthersDrained k t u) :
    KeepsOthersDrained k s u :=
  ⟨h'.1.trans h.1, fun j hj => (h'.2 j hj).trans (h.2 j hj)⟩

theorem keepsOthersDrained_stageInTurn {k : Nat} {st : Stage} {s t : State} (h : stageInTurn k st s = .next t) :
    KeepsOthersDrained k s t := by
  have hstep := stageStep_of_next (s := s.give (.stage k st)) rfl h
  obtain ⟨hcfg, -, -, -, -, hcores⟩ := hstep.sameBesideBus
  refine ⟨hcores, fun j hj => ?_⟩
  by_cases hlt : j < s.nCores
  · obtain heq | ⟨-, hturn, -⟩ := (hstep.core hlt).drained
    · exact heq
    · injection hturn with hjk
      exact absurd hjk.symm hj
  · have hle := Nat.le_of_not_lt hlt
    rw [State.core_of_le s j hle, State.core_of_le t j (hcores.le.trans hle)]
    rfl

theorem keepsOthersDrained_pipelineCycle {k : Nat} {s t : State} (h : pipelineCycle k s = .next t) : KeepsOthersDrained k s t := by
  simp only [pipelineCycle, onNext_eq_next] at h
  obtain ⟨t1, h1, t2, h2, t3, h3, t4, h4, h5⟩ := h
  have hbegin : KeepsOthersDrained k s (s.modCore k Core.beginCycle) :=
    ⟨s.nCores_modCore k _, fun j hj => by rw [State.core_modCore_ne _ _ _ _ hj]⟩
  exact hbegin.trans <| (keepsOthersDrained_stageInTurn h1).trans <| (keepsOthersDrained_stageInTurn h2).trans <|
    (keepsOthersDrained_stageInTurn h3).trans <| (keepsOthersDrained_stageInTurn h4).trans (keepsOthersDrained_stageInTurn h5)

/-- The steps from core k's turn to the memory's are the cycles of the cores from k on; `n` cores are left, whose flags are still those of `s`. -/
theorem runSteps_coreCycles (s : State) (n : Nat) {k : Nat} {t : State} (hkn : k + n = s.nCores) (hcores : t.nCores = s.nCores)
    (hdrained : ∀ j, k ≤ j → (t.core j).drained = (s.core j).drained) :
    runSteps (((List.range' k n).map fun j => coreSteps (s.core j)).sum + 1) (t.give (.cycleStart k)) =
      onNext (coreCycles (List.range' k n) t) fun u => .next (u.give .memory) := by
  induction n generalizing k t with
  | zero =>
    have hstep : step (t.give (.cycleStart k)) = .next (t.give .memory) := if_neg (by rw [State.nCores_give]; omega)
    rw [List.range'_zero, List.map_nil, List.sum_nil, Nat.zero_add, runSteps_one, hstep]
    rfl
  | succ n ih =>
    have hk : k < t.nCores := by omega
    have hsteps : coreSteps (s.core k) = coreSteps (t.core k) := by rw [coreSteps, coreSteps, hdrained k (Nat.le_refl k)]
    rw [List.range'_succ, List.map_cons, List.sum_cons, hsteps, Nat.add_assoc, runSteps_add, runSteps_coreCycle hk, onNext_assoc,
      coreCycles, onNext_assoc]
    refine onNext_congr fun u hu => ?_
    have hkept : KeepsOthersDrained k t u := by
      split at hu
      · cases hu
        exact ⟨rfl, fun _ _ => rfl⟩
      · exact keepsOthersDrained_pipelineCycle hu
    rw [onNext_next]
    exact ih (by omega) (hkept.1.trans hcores) fun j hj => (hkept.2 j (by omega)).trans (hdrained j (by omega))

/-! ## The memory and the bus do not look at the turn -/

section
variable (s : State) (u : Turn)

theorem State.beginMemOp_give (kind : MemOpKind) (a : Word) :
    (s.give u).beginMemOp kind a = ((s.beginMemOp kind a).1, (s.beginMemOp kind a).2.give u) := by
  simp only [State.beginMemOp, State.memop_give]
  cases s.memop <;> rfl

theorem State.memTick_give : (s.give u).memTick = (s.memTick.1, s.memTick.2.give u) := by
  simp only [State.memTick, State.memop_give]
  cases s.memop with
  | none => rfl
  | some op =>
    dsimp only
    split
    · rfl
    · cases op.kind <;> rfl

theorem State.fetchFromMemory_give (k : Nat) (a : Word) :
    (s.give u).fetchFromMemory k a = (s.fetchFromMemory k a).give u := by
  rw [State.fetchFromMemory, State.beginRead, State.beginMemOp_give]
  rfl

theorem State.flushHolder_give (j : Nat) (a d : Word) : (s.give u).flushHolder j a d = (s.flushHolder j a d).give u := by
  have hdemoted : (s.give u).modCache j (fun c => c.setBits (s.give u).cfg.indexBits a .shared) =
      (s.modCache j fun c => c.setBits s.cfg.indexBits a .shared).give u := rfl
  rw [State.flushHolder, hdemoted, State.beginWrite, State.beginMemOp_give]
  rfl

theorem State.snoop_give (k : Nat) (q : Request) :
    (s.give u).snoop k q = ((s.snoop k q).1, (s.snoop k q).2.give u) := by
  have hholders : ∀ m, (s.give u).otherHolders k q.addr m = s.otherHolders k q.addr m := fun _ => rfl
  unfold State.snoop State.grantBusRd State.grantBusRdX
  simp only [hholders, State.lineData_give, State.flushHolder_give, State.fetchFromMemory_give]
  cases q.cmd <;> dsimp only <;> split <;> rfl

theorem State.grant_give (k : Nat) : (s.give u).grant k = (s.grant k).give u := by
  cases hq : (s.core k).pend with
  | none =>
    have hq' : ((s.give u).core k).pend = none := hq
    rw [State.grant_of_no_pend hq, State.grant_of_no_pend hq']
  | some q =>
    have hq' : ((s.give u).core k).pend = some q := hq
    rw [State.grant_of_pend hq, State.grant_of_pend hq', State.grantedTxn, State.snoop_give]
    rfl

theorem State.leastPending_give : (s.give u).leastPending = s.leastPending := rfl

theorem State.busTick_give (r : MemResult) : (s.give u).busTick r = (s.busTick r).give u := by
  obtain ⟨x, d, hx, h, hready⟩ | ⟨x, hx, h, hwait⟩ | ⟨j, hx, hj, h⟩ | ⟨hx, hj, h⟩ := s.busTick_cases r <;> rw [h]
  · exact State.busTick_of_ready (s := s.give u) hx hready
  · exact State.busTick_of_waiting (s := s.give u) hx (hwait.imp_right fun ⟨d, hd, hr⟩ => ⟨⟨d, hd⟩, hr⟩)
  · rw [← State.grant_give]
    simp only [State.busTick, State.txn_give, hx, State.leastPending_give, hj]
  · simp only [State.busTick, State.txn_give, hx, State.leastPending_give, hj]

end

theorem runSteps_memory_bus (s : State) :
    runSteps 2 (s.give .memory) = .next ((s.memTick.2.busTick s.memTick.1).give .tickStart) := by
  have hmemory : step (s.give .memory) = .next (s.memTick.2.give (.bus s.memTick.1)) := by
    change Host.Outcome.next ((s.give .memory).memTick.2.give (.bus (s.give .memory).memTick.1)) = _
    rw [State.memTick_give, State.give_give]
  rw [runSteps, hmemory, onNext_next, runSteps_one]
  exact congrArg Host.Outcome.next ((congrArg (State.give · .tickStart) (State.busTick_give ..)).trans (State.give_give ..))

/-! ## The whole tick -/

theorem tickLength_eq (s : State) : tickLength s = 1 + ((((List.range' 0 s.nCores).map fun j => coreSteps (s.core j)).sum + 1) + 2) := by
  have hmap : s.cores.map coreSteps = (List.range' 0 s.nCores).map fun j => coreSteps (s.core j) := by
    refine List.ext_getElem (by simp [State.nCores]) fun j h1 h2 => ?_
    have hj : j < s.cores.length := by simpa using h1
    simp [State.core, List.getD_eq_getElem?_getD, hj]
  have hsum : (s.cores.map fun c => if c.drained then 1 else 6) = s.cores.map coreSteps := rfl
  rw [tickLength, hsum, hmap]
  omega

/-- Settles O60: the start of the tick, the cycles of the cores, the memory and the bus. -/
theorem stepsOfATickAreTheGlobalTick : Obligations.StepsOfATickAreTheGlobalTick := by
  intro s ht hd hl
  have hstart : step s = .next ({ s with cycle := s.cycle + 1 }.give (.cycleStart 0)) := by rw [step_tickStart ht hd, hl]
  suffices h : runSteps (tickLength s) s = globalTick s from (run_eq_runSteps _ s).trans h
  rw [tickLength_eq, runSteps_add, runSteps_one, hstart, onNext_next, runSteps_add,
    runSteps_coreCycles s s.nCores (t := { s with cycle := s.cycle + 1 }) (Nat.zero_add _) rfl (fun _ _ => rfl), onNext_assoc, globalTick, List.range_eq_range']
  exact onNext_congr fun u _ => runSteps_memory_bus u

end Sys2Proof.Machine
end

section
/-! PROOFS. The passages of an instruction through its stages: how the actions of the stages compose, once for all instructions, and from it the
statements about MUL, SRA, the branches, JAL, HALT, and the loads and stores that find their line. -/

namespace Sys2Proof.Machine

/-! ## The registers under a deferred write -/

/-- The register file with the pending deferred write applied (R128). -/
def Core.regsApplied (c : Core) : Vector Word 16 :=
  match c.dw with
  | none => c.regs
  | some d => c.regs.set d.reg.toNat d.val d.reg.isLt

theorem Core.applyDeferred_eq (c : Core) : c.applyDeferred = { c with regs := c.regsApplied, dw := none } := by
  cases h : c.dw with
  | none =>
    simp only [Core.applyDeferred, Core.regsApplied, h]
    rw [← h]
  | some d => simp only [Core.applyDeferred, Core.regsApplied, h]

/-! ## What an action makes of its core -/

/-- Action `f` of core k answers a next state in which the core has gone from `c` to `c'` and the machine around it has changed as `R` allows,
whatever the rest of a machine with the parameters `cfg` is. -/
def ActsOn (k : Nat) (cfg : Config) (R : State → State → Prop) (f : StageAction) (c c' : Core) : Prop :=
  ∀ u : State, k < u.nCores → u.cfg = cfg → u.core k = c → ∃ t, f k u = .next t ∧ R u t ∧ t.core k = c'

section
variable {k : Nat} {cfg : Config} {c : Core}

theorem actsOn_modCore {f : StageAction} {g : Core → Core}
    (h : ∀ u : State, u.cfg = cfg → u.core k = c → f k u = .next (u.modCore k g)) :
    ActsOn k cfg (SameOutside k) f c (g c) := by
  intro u hk hcfg hc
  exact ⟨_, h u hcfg hc, sameOutside_modCore k u g, by rw [State.core_modCore_self _ _ _ hk, hc]⟩

theorem actsOn_passOn (st : Stage) : ActsOn k cfg (SameOutside k) (passOn st) c (c.hand st (c.slots.get st)) := by
  refine actsOn_modCore (g := fun c' => c'.hand st (c.slots.get st)) fun u _ hc => ?_
  rw [passOn, State.slot, hc]
  rfl

theorem actsOn_writeBackNothing : ActsOn k cfg (SameOutside k) writeBackNothing c c :=
  fun u _ _ hc => ⟨u, rfl, by simp [SameOutside, SameShared], hc⟩

theorem actsOn_writeBackHalt : ActsOn k cfg (SameOutside k) writeBackHalt c { c with drained := true } :=
  actsOn_modCore (g := fun c => { c with drained := true }) fun _ _ _ => rfl

/-- Write-back records the write once the older one is applied. -/
theorem actsOn_writeBackReg (d : Reg) (value : Slot → Word) (hdw : c.dw = none) :
    ActsOn k cfg (SameOutside k) (writeBackReg d value) c { c with dw := deferredOf d (value c.slots.writeBack) } := by
  intro u hk _ hc
  refine ⟨_, rfl, sameOutside_recordWrite k u _ _, ?_⟩
  rw [State.core_recordWrite u k _ _ hk (hc ▸ hdw), State.slot, hc]
  rfl

theorem actsOn_executeAddress :
    ActsOn k cfg (SameOutside k) executeAddress c
      (c.hand .execute { c.slots.execute with addr := effectiveAddress c.slots.execute }) := by
  refine actsOn_modCore
    (g := fun c' => c'.hand .execute { c.slots.execute with addr := effectiveAddress c.slots.execute }) fun u _ hc => ?_
  rw [executeAddress, State.slot, hc]
  rfl

theorem actsOn_executeLoadLinked :
    ActsOn k cfg (SameOutside k) executeLoadLinked c
      ({ c with watch := watchWrite c.watch (effectiveAddress c.slots.execute) .watched }.hand .execute
        { c.slots.execute with addr := effectiveAddress c.slots.execute }) := by
  refine actsOn_modCore (g := fun c' =>
    { c' with watch := watchWrite c'.watch (effectiveAddress c.slots.execute) .watched }.hand .execute
      { c.slots.execute with addr := effectiveAddress c.slots.execute }) fun u _ hc => ?_
  simp only [executeLoadLinked, State.slot, hc, State.setWatch, State.pass, State.setSlot, State.modCore_modCore]
  rfl

/-- A load that hits (R99). -/
theorem actsOn_memoryLoad_hit (ha : c.slots.memory.addr.toNat < cfg.memWords)
    (hcopy : c.cache.hasCopy cfg.indexBits c.slots.memory.addr = true) :
    ActsOn k cfg (SameOutside k) memoryLoad c
      ({ c with cache := { c.cache with hits := c.cache.hits + 1 } }.hand .memory
        { c.slots.memory with ldata := c.cache.getData cfg.indexBits c.slots.memory.addr }) := by
  refine actsOn_modCore (g := fun c' => { c' with cache := { c'.cache with hits := c'.cache.hits + 1 } }.hand .memory
    { c.slots.memory with ldata := c.cache.getData cfg.indexBits c.slots.memory.addr }) fun u hcfg hc => ?_
  subst hcfg hc
  rw [memoryLoad_hit ha hcopy, State.modCache, State.pass, State.setSlot, State.modCore_modCore]
  rfl

/-- A store into an own Modified line (R100, R135). -/
theorem actsOn_memoryStore_hit (ha : c.slots.memory.addr.toNat < cfg.memWords)
    (howns : c.cache.owns cfg.indexBits c.slots.memory.addr = true) :
    ActsOn k cfg (SameOutside k) memoryStore c
      ({ c with cache := (c.cache.write cfg.indexBits c.slots.memory.addr c.slots.memory.sdata).2 }.hand .memory
        c.slots.memory) := by
  refine actsOn_modCore (g := fun c' =>
    { c' with cache := (c'.cache.write cfg.indexBits c.slots.memory.addr c.slots.memory.sdata).2 }.hand .memory
      c.slots.memory) fun u hcfg hc => ?_
  subst hcfg hc
  rw [memoryStore_hit ha howns, State.modCache, State.pass, State.setSlot, State.modCore_modCore]
  rfl

end

/-! ## What Decode makes of its core -/

section
variable {s : State} {k : Nat}

theorem readOperands_congr {u : State} (h : u.core k = s.core k) (rs : Reg) (b : OperandB) :
    readOperands u k rs b = readOperands s k rs b := by
  cases b <;> simp only [readOperands, OperandB.value, State.slot, State.reg, h]

theorem actsOn_decodeOperands {rd : Reg} (rs : Reg) (b : OperandB) (hrd : rd ≠ 1) :
    ActsOn k s.cfg (SameOutside k) (decodeOperands rd rs b) (s.core k)
      ((s.core k).hand .decode (readOperands s k rs b)) := by
  refine actsOn_modCore (g := fun c => c.hand .decode (readOperands s k rs b)) fun u _ hc => ?_
  rw [← readOperands_congr hc]
  exact if_neg hrd

theorem actsOn_decodeStore {rd : Reg} (rs rt : Reg) (hrd : rd ≠ 1) :
    ActsOn k s.cfg (SameOutside k) (decodeStore rd rs rt) (s.core k)
      ((s.core k).hand .decode { readOperands s k rs (.reg rt) with sdata := s.reg k rd }) := by
  refine actsOn_modCore (g := fun c => c.hand .decode { readOperands s k rs (.reg rt) with sdata := s.reg k rd }) fun u _ hc => ?_
  rw [← readOperands_congr hc, State.reg, ← hc]
  exact if_neg hrd

theorem actsOn_decodeBranch {cond : Cond} {rs rt : Reg} (imm : Imm) {taken : Prop} [Decidable taken]
    (h : cond.holds (s.reg k rs) (s.reg k rt) = decide taken) :
    ActsOn k s.cfg (SameOutside k) (decodeBranch cond rs rt imm) (s.core k)
      ({ s.core k with
          pc := if taken then branchTarget imm else (s.core k).pc
          branchTaken := if taken then true else (s.core k).branchTaken }.hand .decode (readOperands s k rs (.reg rt))) := by
  refine actsOn_modCore (g := fun c =>
    { c with
        pc := if taken then branchTarget imm else c.pc
        branchTaken := if taken then true else c.branchTaken }.hand .decode (readOperands s k rs (.reg rt))) fun u _ hc => ?_
  have hcond : cond.holds (u.reg k rs) (u.reg k rt) = decide taken := by rw [← h, State.reg, State.reg, hc]; rfl
  rw [decodeBranch, readOperands_congr hc, hcond]
  by_cases htaken : taken
  · simp only [htaken, decide_true, if_true, State.redirect, State.pass, State.setSlot, State.modCore_modCore]
    rfl
  · simp only [htaken, decide_false, Bool.false_eq_true, if_false]
    rfl

theorem actsOn_decodeJal (imm : Imm) :
    ActsOn k s.cfg (SameOutside k) (decodeJal imm) (s.core k)
      ({ s.core k with pc := branchTarget imm, branchTaken := true }.hand .decode
        { readOperands s k 0 (.reg 0) with ret := (s.slot k .decode).ipc + 1 }) := by
  refine actsOn_modCore (g := fun c => { c with pc := branchTarget imm, branchTaken := true }.hand .decode
    { readOperands s k 0 (.reg 0) with ret := (s.slot k .decode).ipc + 1 }) fun u _ hc => ?_
  rw [decodeJal, readOperands_congr hc, State.slot, hc, State.redirect, State.pass, State.setSlot, State.modCore_modCore]
  rfl

end

/-! ## The passage -/

theorem SameShared.cfg_nCores {s t : State} (h : SameShared s t) : t.cfg = s.cfg ∧ t.nCores = s.nCores := by
  obtain ⟨hcfg, -, -, -, -, -, -, -, hcores⟩ := h
  exact ⟨hcfg, hcores⟩

section
variable {i : Instr} {k : Nat} {s : State} {c1 c2 c3 c4 : Core}

/-- The four actions of an instruction, one after the other, are its passage; its Execute may change the machine around its core as `R` allows. -/
theorem passage_of_actsOn {R : State → State → Prop} (hk : k < s.nCores) (hR : ∀ u t, R u t → SameShared u t)
    (hd : ActsOn k s.cfg (SameOutside k) (decodeAction i) (s.core k) c1) (he : ActsOn k s.cfg R (executeAction i) c1 c2)
    (hm : ActsOn k s.cfg (SameOutside k) (memoryAction i) c2 c3)
    (hw : ActsOn k s.cfg (SameOutside k) (writeBackAction i) c3.applyDeferred c4) :
    ∃ u v t, Passage i k s t ∧ SameOutside k s u ∧ R u v ∧ SameOutside k v t ∧ t.core k = c4 := by
  obtain ⟨t1, h1, hout1, hc1⟩ := hd (s.give (.stage k .decode)) hk rfl rfl
  have hout1 := (sameOutside_give k s _).trans hout1
  obtain ⟨hcfg1, hn1⟩ := hout1.1.cfg_nCores
  obtain ⟨t2, h2, hR2, hc2⟩ := he (t1.give (.stage k .execute)) (by simpa [hn1] using hk) hcfg1 hc1
  obtain ⟨hcfg2, hn2⟩ := (hR _ _ hR2).cfg_nCores
  have hk2 : k < t2.nCores := by simpa [hn2, hn1] using hk
  obtain ⟨t3, h3, hout3, hc3⟩ := hm (t2.give (.stage k .memory)) hk2 (hcfg2.trans hcfg1) hc2
  obtain ⟨hcfg3, hn3⟩ := hout3.1.cfg_nCores
  have hk3 : k < t3.nCores := by simpa [hn3] using hk2
  obtain ⟨t4, h4, hout4, hc4⟩ := hw ((t3.applyDeferred k).give (.stage k .writeBack)) (by simpa using hk3)
    (hcfg3.trans (hcfg2.trans hcfg1)) (by rw [State.core_give, State.core_applyDeferred _ _ hk3, hc3])
  exact ⟨t1.give (.stage k .execute), t2, t4, passage_of_stages (exec_eq_inStage i) h1 h2 h3 h4,
    hout1.trans (sameOutside_give k t1 _), hR2,
    (sameOutside_give k t2 _).trans <| hout3.trans <| (sameOutside_applyDeferred k t3).trans <|
      (sameOutside_give k _ _).trans hout4, hc4⟩

/-- The passage of an instruction that acts on its own core alone. -/
theorem passage_within (hk : k < s.nCores) (hd : ActsOn k s.cfg (SameOutside k) (decodeAction i) (s.core k) c1)
    (he : ActsOn k s.cfg (SameOutside k) (executeAction i) c1 c2)
    (hm : ActsOn k s.cfg (SameOutside k) (memoryAction i) c2 c3)
    (hw : ActsOn k s.cfg (SameOutside k) (writeBackAction i) c3.applyDeferred c4) :
    ∃ t, Passage i k s t ∧ SameOutside k s t ∧ t.core k = c4 := by
  obtain ⟨u, v, t, hp, hsu, huv, hvt, hc⟩ := passage_of_actsOn hk (fun _ _ h => h.1) hd he hm hw
  exact ⟨t, hp, hsu.trans (huv.trans hvt), hc⟩

/-- The front slots of a core are as they were when its core says so. -/
theorem sameFront_of_core {t : State} {c : Core} (h : t.core k = c) (hf : c.slots.fetch = (s.core k).slots.fetch)
    (hd : c.slots.decode = (s.core k).slots.decode) : SameFront k s t := by
  subst h
  exact ⟨hf, hd⟩

end

/-! ## MUL and SRA -/

theorem mul_acts (rd rs rt : Reg) : ActsAsRegisterOp (.mul rd rs rt) rd rs (.reg rt) (executeAlu mulFn) := fun _ => rfl
theorem mulImm_acts (rd rs : Reg) (imm : Imm) : ActsAsRegisterOp (.mulImm rd rs imm) rd rs (.imm imm) (executeAlu mulFn) :=
  fun _ => rfl
theorem sra_acts (rd rs rt : Reg) : ActsAsRegisterOp (.sra rd rs rt) rd rs (.reg rt) (executeShift sraFn) := fun _ => rfl
theorem sraImm_acts (rd rs : Reg) (imm : Imm) : ActsAsRegisterOp (.sraImm rd rs imm) rd rs (.imm imm) (executeShift sraFn) :=
  fun _ => rfl

theorem mulFn_eq_ofNat (a b : Word) : mulFn a b = BitVec.ofNat 32 (a.toNat * b.toNat) := by
  simp [mulFn, BitVec.ofNat_mul]

theorem mulFn_eq_ofInt (a b : Word) : mulFn a b = BitVec.ofInt 32 (a.toInt * b.toInt) := by
  simp [mulFn, BitVec.ofInt_mul]

/-- The sign-filling shift is the division rounded down (R88). -/
theorem sraFn_eq_ofInt (a : Word) (n : Nat) : sraFn a n = BitVec.ofInt 32 (Int.fdiv a.toInt (2 ^ n)) := by
  have hpos : (0 : Int) ≤ 2 ^ n := by positivity
  rw [sraFn, BitVec.sshiftRight, Int.shiftRight_eq_div_pow, Int.fdiv_eq_ediv_of_nonneg _ hpos]
  norm_cast

/-- Settles O13: `computes_alu` with the product read as a number. -/
theorem mulResults : Obligations.MulResults := by
  intro s k rd rs hk hrd
  refine ⟨fun rt => ?mul, fun imm => ?mulImm⟩
  case mul =>
    rw [← mulFn_eq_ofNat]
    exact (mul_acts rd rs rt).computes_alu hk hrd
  case mulImm =>
    rw [← toInt_sext12, ← mulFn_eq_ofInt]
    exact (mulImm_acts rd rs imm).computes_alu hk hrd

/-- Settles O15: `computes_shift` with the shift read as a division. -/
theorem arithmeticShiftResults : Obligations.ArithmeticShiftResults := by
  intro s k n rd rs hk hrd hn
  rw [← sraFn_eq_ofInt]
  exact ⟨fun rt hrt => (sra_acts rd rs rt).computes_shift hk hrd hn hrt,
    fun imm himm => (sraImm_acts rd rs imm).computes_shift hk hrd hn ((toInt_sext12 imm).trans himm)⟩

/-! ## The branches, JAL, HALT -/

/-- An instruction that acts as R89 has a branch act, its condition being `taken`. -/
theorem branchesTo_of_decodeBranch {i : Instr} {cond : Cond} {rs rt : Reg} {imm : Imm} (hd : decodeAction i = decodeBranch cond rs rt imm)
    (he : executeAction i = passOn .execute) (hm : memoryAction i = passOn .memory) (hw : writeBackAction i = writeBackNothing)
    {s : State} {k : Nat} {taken : Prop} [Decidable taken] (hk : k < s.nCores)
    (htaken : cond.holds (s.reg k rs) (s.reg k rt) = decide taken) : BranchesTo i k s taken (immWord imm) := by
  obtain ⟨t, hp, hout, hc⟩ := passage_within hk (hd ▸ actsOn_decodeBranch imm htaken) (he ▸ actsOn_passOn .execute)
    (hm ▸ actsOn_passOn .memory) (hw ▸ actsOn_writeBackNothing)
  rw [Core.applyDeferred_eq] at hc
  refine ⟨t, hp, hout, sameFront_of_core hc rfl rfl, ?_⟩
  rw [hc, Core.applyDeferred_eq]
  rfl

/-- Settles O17: the six branches differ in their condition only. -/
theorem branchesDecideOnTheirCondition : Obligations.BranchesDecideOnTheirCondition := by
  intro s k rs rt imm hk
  exact ⟨branchesTo_of_decodeBranch rfl rfl rfl rfl hk rfl, branchesTo_of_decodeBranch rfl rfl rfl rfl hk rfl,
    branchesTo_of_decodeBranch rfl rfl rfl rfl hk rfl, branchesTo_of_decodeBranch rfl rfl rfl rfl hk rfl,
    branchesTo_of_decodeBranch rfl rfl rfl rfl hk rfl, branchesTo_of_decodeBranch rfl rfl rfl rfl hk rfl,
    by simp [encode], by simp [encode], by simp [encode], by simp [encode], by simp [encode], by simp [encode]⟩

/-- Settles O18: the passage of JAL, whose link goes to a register that is not 0 or 1. -/
theorem jalLinksAndJumps : Obligations.JalLinksAndJumps := by
  intro s k rd imm hk
  obtain ⟨t, hp, hout, hc⟩ := passage_within (i := .jal rd imm) hk (actsOn_decodeJal imm) (actsOn_passOn .execute)
    (actsOn_passOn .memory) (actsOn_writeBackReg linkReg Slot.ret (Core.dw_applyDeferred _))
  rw [Core.applyDeferred_eq] at hc
  refine ⟨t, hp, hout, sameFront_of_core hc rfl rfl, ?_⟩
  rw [hc, Core.applyDeferred_eq]
  rfl

/-- Settles O19: the passage of HALT. -/
theorem haltDrains : Obligations.HaltDrains := by
  intro s k hk
  obtain ⟨t, hp, hout, hc⟩ := passage_within (i := .halt) hk (actsOn_passOn .decode) (actsOn_passOn .execute)
    (actsOn_passOn .memory) actsOn_writeBackHalt
  rw [Core.applyDeferred_eq] at hc
  refine ⟨t, hp, hout, sameFront_of_core hc rfl rfl, ?_⟩
  rw [hc, Core.applyDeferred_eq]
  rfl

/-! ## The loads and stores that find their line -/

section
variable {s : State} {k : Nat} {rd rs rt : Reg} {ea : Word}

/-- The effective address that Execute computes from the operands of Decode (R98). -/
theorem effectiveAddress_eq (h : ea = BitVec.ofNat 32 ((s.reg k rs).toNat + (s.reg k rt).toNat)) :
    effectiveAddress (readOperands s k rs (.reg rt)) = ea :=
  (addFn_eq_ofNat ..).trans h.symm

end

/-- Settles O21: the passages of LW and LL on a hit. -/
theorem loadHitResults : Obligations.LoadHitResults := by
  intro s k rd rs rt ea hk hrd hs hea hmem hcopy
  have haddr := effectiveAddress_eq hea
  have hhit := State.hasCopy_of_bits_ne hcopy
  rw [← haddr] at hmem hhit
  constructor
  · obtain ⟨t, hp, hout, hc⟩ := passage_within (i := .lw rd rs rt) hk (actsOn_decodeOperands rs (.reg rt) hrd)
      actsOn_executeAddress (actsOn_memoryLoad_hit hmem hhit) (actsOn_writeBackReg rd Slot.ldata (Core.dw_applyDeferred _))
    rw [Core.applyDeferred_eq] at hc
    refine ⟨t, hp, hout, sameFront_of_core hc rfl rfl, ?_⟩
    rw [hc, Core.applyDeferred_eq, ← haddr]
    rfl
  · obtain ⟨t, hp, hout, hc⟩ := passage_within (i := .ll rd rs rt) hk (actsOn_decodeOperands rs (.reg rt) hrd)
      actsOn_executeLoadLinked (actsOn_memoryLoad_hit hmem hhit) (actsOn_writeBackReg rd Slot.ldata (Core.dw_applyDeferred _))
    rw [Core.applyDeferred_eq] at hc
    refine ⟨t, hp, hout, sameFront_of_core hc rfl rfl, ?_, fun a => ?_⟩
    · rw [hc, Core.applyDeferred_eq, ← haddr]
      rfl
    · rw [State.watchOf, hc, ← haddr]
      exact watchRead_watchWrite _ (hs.wf_watch k) ..

/-- Settles O22: the passage of SW on an own Modified line. -/
theorem storeHitResults : Obligations.StoreHitResults := by
  intro s k rd rs rt ea hk hrd hea hmem hmod
  have haddr := effectiveAddress_eq hea
  have howns := (Cache.owns_iff ..).mpr hmod
  rw [← haddr] at hmem howns hmod
  obtain ⟨t, hp, hout, hc⟩ := passage_within (i := .sw rd rs rt) hk (actsOn_decodeStore rs rt hrd)
    actsOn_executeAddress (actsOn_memoryStore_hit hmem howns) actsOn_writeBackNothing
  rw [Core.applyDeferred_eq] at hc
  refine ⟨t, hp, hout, sameFront_of_core hc rfl rfl, ?_, ?_⟩
  · rw [← haddr]
    exact storedInLine_of_write hout.1.cfg_nCores.1 hmod (by rw [hc]; rfl)
  · rw [hc, Core.applyDeferred_eq]
    rfl

/-! ## The store-conditional -/

/-- A core's watch table after the check of core k on `a` (R157). -/
def consumedTable (k : Nat) (a : Word) (table : List (Nat × Watch)) : List (Nat × Watch) :=
  if watchRead table a = .watched then watchWrite table a (.succeededFor k) else table

/-- The machine after core k's Execute of an SC on `a`: outside core k the watch tables are consumed and nothing else changes. -/
def ConsumedOutside (k : Nat) (a : Word) (u t : State) : Prop :=
  SameShared u t ∧ ∀ j, j ≠ k → t.core j = { u.core j with watch := consumedTable k a (u.core j).watch }

theorem SameShared.trans {s t u : State} (h : SameShared s t) (h' : SameShared t u) : SameShared s u := by
  obtain ⟨hcfg, htxn, hmem, hread, hop, hstaged, hcycle, hevents, hcores⟩ := h
  obtain ⟨hcfg', htxn', hmem', hread', hop', hstaged', hcycle', hevents', hcores'⟩ := h'
  exact ⟨hcfg'.trans hcfg, htxn'.trans htxn, hmem'.trans hmem, fun a => (hread' a).trans (hread a), hop'.trans hop,
    hstaged'.trans hstaged, hcycle'.trans hcycle, hevents'.trans hevents, hcores'.trans hcores⟩

theorem State.core_consumeWatches_eq (s : State) (k : Nat) (a : Word) (j : Nat) :
    (s.consumeWatches k a).core j = { s.core j with watch := consumedTable k a (s.core j).watch } := by
  rw [State.core_consumeWatches, consumedTable, State.watchOf]
  split <;> rfl

/-- A machine in which every core's table is consumed, in the words of R157. -/
theorem watchesConsumed_of_tables {s t : State} (hs : s.Shaped) (k : Nat) (a : Word)
    (h : ∀ j, (t.core j).watch = consumedTable k a (s.core j).watch) : WatchesConsumed s t k a := by
  intro j b
  rw [← watchesConsumed_consumeWatches hs k a j b, State.watchOf, State.watchOf, h, State.core_consumeWatches_eq]

/-- The answer of the check is in the core's own table. -/
theorem State.reservationHolds_congr {s u : State} {k : Nat} (h : (u.core k).watch = (s.core k).watch) (a : Word) :
    u.reservationHolds k a = s.reservationHolds k a := by
  simp only [State.reservationHolds, State.watchOf, h]

section
variable {k : Nat} {cfg : Config} {c : Core}

/-- Execute of SC on `a`, whose check answers `ok` (R104). -/
theorem actsOn_executeStoreConditional {a : Word} {ok : Bool} (ha : effectiveAddress c.slots.execute = a)
    (hok : ∀ u : State, u.core k = c → u.reservationHolds k a = ok) :
    ActsOn k cfg (ConsumedOutside k a) executeStoreConditional c
      ({ c with watch := consumedTable k a c.watch }.hand .execute
        { c.slots.execute with addr := a, scOk := ok, result := if ok then 1 else 0 }) := by
  intro u hk _ hc
  refine ⟨(u.consumeWatches k a).pass k .execute
    { c.slots.execute with addr := a, scOk := ok, result := if ok then 1 else 0 }, ?_, ⟨?_, fun j hj => ?_⟩, ?_⟩
  · simp only [executeStoreConditional, State.slot, hc, Slots.get, ha, State.checkAndConsume, hok u hc]
  · simp [SameShared]
  · rw [State.core_pass_ne _ _ _ _ _ hj, State.core_consumeWatches_eq]
  · rw [State.core_pass _ _ _ _ (by simpa using hk), State.core_consumeWatches_eq, hc]
    rfl

theorem ActsOn.congr {R : State → State → Prop} {f g : StageAction} {c' : Core} (hg : ActsOn k cfg R g c c')
    (h : ∀ u : State, u.core k = c → f k u = g k u) : ActsOn k cfg R f c c' := by
  intro u hk hcfg hc
  rw [h u hc]
  exact hg u hk hcfg hc

/-- A suppressed SC makes no access (R104, R124). -/
theorem actsOn_memoryStoreConditional_suppressed (h : c.slots.memory.scOk = false) :
    ActsOn k cfg (SameOutside k) memoryStoreConditional c (c.hand .memory c.slots.memory) :=
  (actsOn_passOn .memory).congr fun u hc => memoryStoreConditional_suppressed (by rw [State.slot, hc]; exact h)

theorem actsOn_memoryStoreConditional_of_scOk {c' : Core} (h : c.slots.memory.scOk = true)
    (hstore : ActsOn k cfg (SameOutside k) memoryStore c c') : ActsOn k cfg (SameOutside k) memoryStoreConditional c c' :=
  hstore.congr fun u hc => memoryStoreConditional_of_scOk (by rw [State.slot, hc]; exact h)

end

/-- The passage of an SC, whose check answers `ok`, from what its Memory makes of its core. -/
theorem passage_storeConditional {s : State} {k : Nat} {rd rs rt : Reg} {ea : Word} {ok : Bool} {c3 : Core} (hk : k < s.nCores)
    (hrd : rd ≠ 1) (hs : s.Shaped) (hea : ea = BitVec.ofNat 32 ((s.reg k rs).toNat + (s.reg k rt).toNat))
    (hok : s.reservationHolds k ea = ok)
    (hm : ActsOn k s.cfg (SameOutside k) memoryStoreConditional
      ({ (s.core k).hand .decode { readOperands s k rs (.reg rt) with sdata := s.reg k rd } with
          watch := consumedTable k ea (s.core k).watch }.hand .execute
        { readOperands s k rs (.reg rt) with
          sdata := s.reg k rd, addr := ea, scOk := ok, result := if ok then 1 else 0 }) c3)
    (hwatch : c3.watch = consumedTable k ea (s.core k).watch) :
    ∃ t, Passage (.sc rd rs rt) k s t ∧ SameButWatches k s t ∧ WatchesConsumed s t k ea ∧
      t.core k = { c3.applyDeferred with dw := deferredOf rd c3.applyDeferred.slots.writeBack.result } := by
  obtain ⟨u, v, t, hp, hsu, huv, hvt, hc⟩ := passage_of_actsOn (i := .sc rd rs rt) hk (fun _ _ h => h.1)
    (actsOn_decodeStore rs rt hrd)
    (actsOn_executeStoreConditional (effectiveAddress_eq hea) fun u hc =>
      (State.reservationHolds_congr (by rw [hc]; rfl) ea).trans hok)
    hm (actsOn_writeBackReg rd Slot.result (Core.dw_applyDeferred _))
  have hothers : ∀ j, j ≠ k → t.core j = { s.core j with watch := consumedTable k ea (s.core j).watch } := by
    intro j hj
    rw [hvt.2 j hj, huv.2 j hj, hsu.2 j hj]
  refine ⟨t, hp, ⟨(hsu.1.trans huv.1).trans hvt.1, fun j hj => ?_⟩, watchesConsumed_of_tables hs k ea fun j => ?_, hc⟩
  · rw [hothers j hj]
  · by_cases hj : j = k
    · subst hj
      rw [hc, Core.applyDeferred_eq]
      exact hwatch
    · rw [hothers j hj]

/-- Settles O23: the check answers as `reservationHolds` says, and a successful SC goes on as SW does. -/
theorem storeConditionalResults : Obligations.StoreConditionalResults := by
  intro s k rd rs rt ea hk hrd hs hea
  refine ⟨fun hother => ?fails, fun hnone hmem hmod => ?succeeds⟩
  case fails =>
    obtain ⟨t, hp, hout, hwatches, hc⟩ := passage_storeConditional hk hrd hs hea (State.reservationHolds_eq_false.mpr hother)
      (actsOn_memoryStoreConditional_suppressed rfl) rfl
    rw [Core.applyDeferred_eq] at hc
    refine ⟨t, hp, hout, sameFront_of_core hc rfl rfl, hwatches, ?_⟩
    rw [hc, Core.applyDeferred_eq]
    rfl
  case succeeds =>
    obtain ⟨t, hp, hout, hwatches, hc⟩ := passage_storeConditional hk hrd hs hea (State.reservationHolds_eq_true.mpr hnone)
      (actsOn_memoryStoreConditional_of_scOk rfl (actsOn_memoryStore_hit hmem ((Cache.owns_iff ..).mpr hmod))) rfl
    rw [Core.applyDeferred_eq] at hc
    refine ⟨t, hp, hout, sameFront_of_core hc rfl rfl, hwatches,
      storedInLine_of_write hout.1.cfg_nCores.1 hmod (by rw [hc]; rfl), ?_⟩
    rw [hc, Core.applyDeferred_eq]
    rfl

end Sys2Proof.Machine
end

section
/-! PROOFS. The stages around `exec` (50_pipeline.md): what a stage does with a Bubble and with an instruction, the hazard check, the start of a
pipeline cycle, the write delay, the branch flush, and the stops that stand in a record. -/

namespace Sys2Proof.Machine

section
variable {s : State} {k : Nat}

/-- The step of the stage that has the turn: its action, and the turn passed on. -/
theorem step_of_turn {st : Stage} (ht : s.turn = .stage k st) :
    step s = onNext (stageAction k st s) fun t => .next (t.give (st.turnAfter k)) := by
  simp only [step, nextAction, ht]

/-! ## The actions of the stages -/

theorem stageAction_stalled {st : Stage} (hs : (s.core k).stalled.get st = true) : stageAction k st s = .next s := by
  cases st <;> exact if_pos hs

theorem writeBackStage_bubble (hs : (s.core k).stalled.writeBack = false) (h : (s.slot k .writeBack).content = .bubble) :
    writeBackStage k s = .next (s.applyDeferred k) := by
  simp only [writeBackStage, hs, h, Bool.false_eq_true, if_false]

theorem writeBackStage_instr {i : Instr} (hs : (s.core k).stalled.writeBack = false)
    (h : (s.slot k .writeBack).content = .instr i) : writeBackStage k s = exec i (s.applyDeferred k) := by
  simp only [writeBackStage, hs, h, Bool.false_eq_true, if_false]

theorem memoryStage_bubble (hs : (s.core k).stalled.memory = false) (h : (s.slot k .memory).content = .bubble) :
    memoryStage k s = passOn .memory k s := by
  simp only [memoryStage, hs, h, Bool.false_eq_true, if_false]

theorem memoryStage_instr {i : Instr} (hs : (s.core k).stalled.memory = false) (h : (s.slot k .memory).content = .instr i) :
    memoryStage k s = exec i s := by
  simp only [memoryStage, hs, h, Bool.false_eq_true, if_false]

theorem executeStage_bubble (hs : (s.core k).stalled.execute = false) (h : (s.slot k .execute).content = .bubble) :
    executeStage k s = passOn .execute k s := by
  simp only [executeStage, hs, h, Bool.false_eq_true, if_false]

theorem executeStage_instr {i : Instr} (hs : (s.core k).stalled.execute = false) (h : (s.slot k .execute).content = .instr i) :
    executeStage k s = exec i s := by
  simp only [executeStage, hs, h, Bool.false_eq_true, if_false]

theorem executeStage_corrupt {d : Defect} (hs : (s.core k).stalled.execute = false)
    (h : (s.slot k .execute).content = .corrupt d) :
    executeStage k s = s.raise k (.unrecognisedOpcode (s.slot k .execute).ipc) := by
  simp only [executeStage, hs, h, Bool.false_eq_true, if_false]

theorem decodeStage_hold (hs : (s.core k).stalled.decode = false) (hl : (s.core k).stallLength > 0) :
    decodeStage k s = .next (s.modCore k Core.holdDecode) := by
  simp only [decodeStage, hs, hl, Bool.false_eq_true, if_false, if_true]

theorem decodeStage_bubble (hs : (s.core k).stalled.decode = false) (hl : (s.core k).stallLength = 0)
    (h : (s.slot k .decode).content = .bubble) : decodeStage k s = passOn .decode k (s.modCore k Core.releaseDecode) := by
  simp only [decodeStage, hs, hl, h, gt_iff_lt, Nat.lt_irrefl, Bool.false_eq_true, if_false]

theorem decodeStage_instr {i : Instr} (hs : (s.core k).stalled.decode = false) (hl : (s.core k).stallLength = 0)
    (h : (s.slot k .decode).content = .instr i) : decodeStage k s = exec i (s.modCore k Core.releaseDecode) := by
  simp only [decodeStage, hs, hl, h, gt_iff_lt, Nat.lt_irrefl, Bool.false_eq_true, if_false]

theorem decodeStage_registerRange {w : WideRecord} (hs : (s.core k).stalled.decode = false) (hl : (s.core k).stallLength = 0)
    (h : (s.slot k .decode).content = .corrupt (.registerRange w)) :
    decodeStage k s = (s.modCore k Core.releaseDecode).raise k (.registerRange (s.slot k .decode).ipc) := by
  simp only [decodeStage, hs, hl, h, gt_iff_lt, Nat.lt_irrefl, Bool.false_eq_true, if_false]

theorem fetchStage_held (h : (s.core k).hzHold = true) : fetchStage k s = .next s := by
  simp only [fetchStage, h, if_true, ite_self]

theorem fetchStage_flush (hs : (s.core k).stalled.fetch = false) (hh : (s.core k).hzHold = false)
    (hb : (s.core k).branchTaken = true) : fetchStage k s = .next (s.modCore k Core.flushFetch) := by
  simp only [fetchStage, hs, hh, hb, Bool.false_eq_true, if_false, if_true]

theorem fetchStage_past (hs : (s.core k).stalled.fetch = false) (hh : (s.core k).hzHold = false)
    (hb : (s.core k).branchTaken = false) (hw : (s.core k).wordAtPc = none) :
    fetchStage k s = s.raise k (.fetchFault (s.core k).pc) := by
  simp only [fetchStage, hs, hh, hb, hw, Bool.false_eq_true, if_false]

theorem fetchStage_instr {w : Word} {i : Instr} (hs : (s.core k).stalled.fetch = false) (hh : (s.core k).hzHold = false)
    (hb : (s.core k).branchTaken = false) (hw : (s.core k).wordAtPc = some w) (hi : decodeWord w = .ok i) :
    fetchStage k s = exec i s := by
  simp only [fetchStage, hs, hh, hb, hw, hi, Bool.false_eq_true, if_false]

end

/-! ## The hazard check -/

theorem producesOneOf_iff {v : Slot} {rs : List Reg} : ProducesOneOf v rs ↔ v.content.writesOneOf rs = true :=
  (Content.writesOneOf_eq_true ..).symm

section
variable {c : Core}

/-- With the count at 0 the stall that Decode begins is that of the nearest producer (R116, R119). -/
theorem Core.stallLength_of_hzCount_eq_zero (h : c.hzCount = 0) : c.stallLength = c.hazard := if_pos h

theorem Core.hazard_of_execute (h : ProducesOneOf c.occExecute c.slots.decode.content.sources) : c.hazard = 3 :=
  if_pos (producesOneOf_iff.mp h)

theorem Core.hazard_of_memory (he : ¬ ProducesOneOf c.occExecute c.slots.decode.content.sources)
    (h : ProducesOneOf c.occMemory c.slots.decode.content.sources) : c.hazard = 2 := by
  rw [producesOneOf_iff] at he h
  rw [Core.hazard, if_neg he, if_pos h]

theorem Core.hazard_of_writeBack (he : ¬ ProducesOneOf c.occExecute c.slots.decode.content.sources)
    (hm : ¬ ProducesOneOf c.occMemory c.slots.decode.content.sources)
    (h : ProducesOneOf c.occWriteBack c.slots.decode.content.sources) : c.hazard = 1 := by
  rw [producesOneOf_iff] at he hm h
  rw [Core.hazard, if_neg he, if_neg hm, if_pos h]

theorem Core.hazard_of_none (he : ¬ ProducesOneOf c.occExecute c.slots.decode.content.sources)
    (hm : ¬ ProducesOneOf c.occMemory c.slots.decode.content.sources)
    (hw : ¬ ProducesOneOf c.occWriteBack c.slots.decode.content.sources) : c.hazard = 0 := by
  rw [producesOneOf_iff] at he hm hw
  rw [Core.hazard, if_neg he, if_neg hm, if_neg hw]

/-- A Bubble waits for no one. -/
theorem Core.hazard_of_bubble (h : c.slots.decode.content = .bubble) : c.hazard = 0 := by
  have hnone : ∀ v : Slot, ¬ ProducesOneOf v c.slots.decode.content.sources := by
    rintro v ⟨p, d, -, -, hd⟩
    rw [h] at hd
    cases hd
  exact Core.hazard_of_none (hnone _) (hnone _) (hnone _)

end

section
variable {s : State} {k : Nat}

/-- A cycle of a hazard stall (R116, R120). -/
theorem heldInDecode {n : Nat} (ht : s.turn = .stage k .decode) (hk : k < s.nCores) (hs : (s.core k).stalled.decode = false)
    (hl : (s.core k).stallLength = n + 1) : HeldInDecode k s n := by
  have hstage : stageAction k .decode s = .next (s.modCore k Core.holdDecode) := decodeStage_hold hs (by omega)
  refine ⟨(s.modCore k Core.holdDecode).give (.stage k .fetch), .bubble, by rw [step_of_turn ht, hstage]; rfl,
    (sameOutside_modCore k s _).trans (sameOutside_give k _ _), rfl, rfl, ?_⟩
  rw [State.core_give, State.core_modCore_self _ _ _ hk, Core.holdDecode, hl]
  rfl

/-- The stall that begins in Decode, of an instruction and of a record with an index over 15 alike, by the nearest producer (R119). -/
theorem heldInDecode_of_producer (ht : s.turn = .stage k .decode) (hk : k < s.nCores) (hs : (s.core k).stalled.decode = false)
    (h0 : (s.core k).hzCount = 0) {rs : List Reg} (hrs : (s.slot k .decode).content.sources = rs) :
    (ProducesOneOf (s.core k).occExecute rs → HeldInDecode k s 2) ∧
    (¬ ProducesOneOf (s.core k).occExecute rs → ProducesOneOf (s.core k).occMemory rs → HeldInDecode k s 1) ∧
    (¬ ProducesOneOf (s.core k).occExecute rs → ¬ ProducesOneOf (s.core k).occMemory rs →
      ProducesOneOf (s.core k).occWriteBack rs → HeldInDecode k s 0) := by
  subst hrs
  have hl := Core.stallLength_of_hzCount_eq_zero h0
  exact ⟨fun h => heldInDecode ht hk hs (hl.trans (Core.hazard_of_execute h)),
    fun he h => heldInDecode ht hk hs (hl.trans (Core.hazard_of_memory he h)),
    fun he hm h => heldInDecode ht hk hs (hl.trans (Core.hazard_of_writeBack he hm h))⟩

/-- With no producer and no stall running Decode runs its instruction (R116). -/
theorem step_decode_instr {i : Instr} (ht : s.turn = .stage k .decode) (hs : (s.core k).stalled.decode = false)
    (h0 : (s.core k).hzCount = 0) (hi : (s.slot k .decode).content = .instr i) (he : ¬ Produces (s.core k).occExecute i)
    (hm : ¬ Produces (s.core k).occMemory i) (hw : ¬ Produces (s.core k).occWriteBack i) :
    step s = onNext (exec i (s.modCore k Core.releaseDecode)) fun t => .next (t.give (.stage k .fetch)) := by
  have hsrc : (s.core k).slots.decode.content.sources = sourceRegs i := congrArg Content.sources hi
  have hl : (s.core k).stallLength = 0 :=
    (Core.stallLength_of_hzCount_eq_zero h0).trans
      (Core.hazard_of_none (by rwa [hsrc]) (by rwa [hsrc]) (by rwa [hsrc]))
  rw [step_of_turn ht, stageAction, decodeStage_instr hs hl hi]
  rfl

end

/-- Settles O27: `heldInDecode_of_producer` for the sources of an instruction. -/
theorem hazardStallLengths : Obligations.HazardStallLengths := by
  intro s k i ht hk hs h0 hi
  obtain ⟨he, hm, hw⟩ := heldInDecode_of_producer ht hk hs h0 (congrArg Content.sources hi)
  exact ⟨he, hm, hw, fun hne hnm hnw => step_decode_instr ht hs h0 hi hne hnm hnw⟩

/-- Settles O28. -/
theorem hazardStallCountsDown : Obligations.HazardStallCountsDown := by
  intro s k n hk
  refine ⟨fun ht hs hcount => heldInDecode ht hk hs ?_, fun ht hhold => ?_⟩
  · rw [Core.stallLength, if_neg (by omega), hcount]
  · rw [step_of_turn ht, stageAction, fetchStage_held hhold]
    rfl

/-! ## The occupants -/

/-- Settles O6: the actions of the stages, one by one. -/
theorem stepRunsTheOccupant : Obligations.StepRunsTheOccupant := by
  refine ⟨fun s k st ht hs => ?stalled, fun s k hk => ⟨fun ht hs hb => ?bubbleW, fun ht hs hb => ?bubbleM, fun ht hs hb => ?bubbleE,
    fun ht hs hb h0 => ?bubbleD⟩, fun s k i => ⟨fun ht hs hi => ?instrW, fun ht hs hi => ?instrM, fun ht hs hi => ?instrE,
    fun ht hs hi h0 hnone => ?instrD⟩⟩
  case stalled =>
    rw [step_of_turn ht, stageAction_stalled hs]
    rfl
  case bubbleW =>
    refine ⟨_, by rw [step_of_turn ht, stageAction, writeBackStage_bubble hs hb]; rfl,
      (sameOutside_applyDeferred k s).trans (sameOutside_give k _ _), rfl, ?_⟩
    rw [State.core_give, State.core_applyDeferred _ _ hk]
  case bubbleM =>
    refine ⟨_, by rw [step_of_turn ht, stageAction, memoryStage_bubble hs hb]; rfl,
      (sameOutside_pass k s _ _).trans (sameOutside_give k _ _), rfl, ?_⟩
    rw [State.core_give, State.core_pass _ _ _ _ hk]
    rfl
  case bubbleE =>
    refine ⟨_, by rw [step_of_turn ht, stageAction, executeStage_bubble hs hb]; rfl,
      (sameOutside_pass k s _ _).trans (sameOutside_give k _ _), rfl, ?_⟩
    rw [State.core_give, State.core_pass _ _ _ _ hk]
    rfl
  case bubbleD =>
    have hl : (s.core k).stallLength = 0 := (Core.stallLength_of_hzCount_eq_zero h0).trans (Core.hazard_of_bubble hb)
    refine ⟨_, by rw [step_of_turn ht, stageAction, decodeStage_bubble hs hl hb]; rfl,
      (sameOutside_modCore k s _).trans ((sameOutside_pass k _ _ _).trans (sameOutside_give k _ _)), rfl, ?_⟩
    rw [State.core_give, State.core_pass _ _ _ _ (by simpa using hk), State.slot, State.core_modCore_self _ _ _ hk]
    rfl
  case instrW =>
    rw [step_of_turn ht, stageAction, writeBackStage_instr hs hi]
    rfl
  case instrM =>
    rw [step_of_turn ht, stageAction, memoryStage_instr hs hi]
    rfl
  case instrE =>
    rw [step_of_turn ht, stageAction, executeStage_instr hs hi]
    rfl
  case instrD =>
    obtain ⟨he, hm, hw⟩ := hnone
    exact step_decode_instr ht hs h0 hi he hm hw

/-- Settles O8. -/
theorem cycleStartLatchesTheOccupants : Obligations.CycleStartLatchesTheOccupants := by
  intro s k ht hk hd
  refine ⟨(s.modCore k Core.beginCycle).give (.stage k .writeBack), ?_,
    (sameOutside_modCore k s _).trans (sameOutside_give k _ _), rfl, ?_⟩
  · simp only [step, nextAction, ht, cycleStartAction, hk, hd, Bool.false_eq_true, if_true, if_false]
  · rw [State.core_give, State.core_modCore_self _ _ _ hk]
    rfl

/-! ## Fetch -/

/-- Settles O5. -/
theorem stepRunsTheFetchedInstruction : Obligations.StepRunsTheFetchedInstruction := by
  intro s k w i ht hs hh hb hw hi
  rw [step_of_turn ht, stageAction, fetchStage_instr hs hh hb hw hi]
  rfl

/-- Settles O10. -/
theorem fetchPastTheProgramFaults : Obligations.FetchPastTheProgramFaults := by
  intro s k ht hs hh hb hlen
  rw [step_of_turn ht, stageAction, fetchStage_past hs hh hb (List.getElem?_eq_none hlen)]
  rfl

theorem getElem?_putWord (program : List Word) (n : Nat) (w : Word) : (putWord program n w)[n]? = some w := by
  unfold putWord
  split
  · next h => simp [h]
  · next h =>
    have hlen : (program ++ List.replicate (n - program.length) (0 : Word)).length = n := by
      simp only [List.length_append, List.length_replicate]
      omega
    rw [List.getElem?_append_right (by omega), hlen, Nat.sub_self]
    rfl

theorem State.fetchCore_lt {s : State} (h : 0 < s.nCores) : s.fetchCore < s.nCores := by
  unfold State.fetchCore
  split
  · assumption
  · exact h

theorem decodeWord_of_decodeTableWord {w : Nat} {i : Instr} (h : decodeTableWord 32 w = some i) :
    decodeWord (BitVec.ofNat 32 w) = .ok i := by
  unfold decodeTableWord at h
  split at h
  · cases hd : decodeWord (BitVec.ofNat 32 w) with
    | ok j =>
      rw [hd] at h
      cases h
      rfl
    | error e =>
      rw [hd] at h
      cases h
  · cases h

/-- Settles O7: the placed word is fetched as O5 says. -/
theorem placedWordRunsNext : Obligations.PlacedWordRunsNext := by
  intro s w i hn hw hi
  have hk := State.fetchCore_lt hn
  have hcore := State.core_modCore_self s s.fetchCore (fun c =>
    { c with
      imem := putWord c.imem c.pc.toNat (BitVec.ofNat 32 (w % 2 ^ 32))
      stalled := { c.stalled with fetch := false }
      hzHold := false
      branchTaken := false }) hk
  refine ⟨s.fetchCore, hk, rfl, stepRunsTheFetchedInstruction _ _ (BitVec.ofNat 32 w) i rfl ?_ ?_ ?_ ?_
    (decodeWord_of_decodeTableWord hi)⟩ <;> rw [State.withFetchWord, State.placeWord, State.core_give, hcore]
  rw [Nat.mod_eq_of_lt hw]
  exact getElem?_putWord ..

/-! ## The runtime fatal stops -/

/-- Settles O26: Decode's check of `rd`, its check of the indexes after the wait, and Execute's check of the opcode. -/
theorem register1DestinationIsFatal : Obligations.Register1DestinationIsFatal := by
  refine ⟨fun s k i ht hvar hrd => ?rd, fun s k w ht hk hs h0 hw => ?index, fun s k ht hs hd => ?opcode⟩
  case rd =>
    rw [exec_decode i ht]
    obtain ⟨-, h⟩ | ⟨hwf, -⟩ := decodeAction_cases i k s
    · exact ⟨_, h, rfl, rfl⟩
    · exact absurd hrd ((Instr.wf_iff i).mp hwf hvar)
  case index =>
    obtain ⟨he, hm, hw'⟩ := heldInDecode_of_producer ht hk hs h0 (congrArg Content.sources hw)
    refine ⟨w.mem_sources, he, hm, hw', fun hne hnm hnw => ?_⟩
    have hsrc : (s.core k).slots.decode.content.sources = w.sources := congrArg Content.sources hw
    have hl : (s.core k).stallLength = 0 :=
      (Core.stallLength_of_hzCount_eq_zero h0).trans
        (Core.hazard_of_none (by rwa [hsrc]) (by rwa [hsrc]) (by rwa [hsrc]))
    exact ⟨_, by rw [step_of_turn ht, stageAction, decodeStage_registerRange hs hl hw]; rfl, rfl, rfl⟩
  case opcode =>
    exact ⟨_, by rw [step_of_turn ht, stageAction, executeStage_corrupt hs hd]; rfl, rfl, rfl⟩

/-! ## The write delay -/

/-- Write-back's own write waits: the registers are those after the older deferred write. -/
theorem Core.Acts.regs_writeBack {ib : Nat} {c c' : Core} (h : Core.Acts ib .writeBack c c') : c'.regs = c.applyDeferred.regs := by
  cases h with
  | applied | recorded | halted => rfl
  | passed _ _ _ hst => simp at hst

/-- Settles O31: Write-back always answers, and leaves the registers of `Core.applyDeferred`. -/
theorem deferredWriteIsAppliedNext : Obligations.DeferredWriteIsAppliedNext := by
  intro s k d ht hk hd
  rw [step_of_turn ht]
  refine ⟨fun hs => ?_, fun hs => by rw [stageAction_stalled (st := .writeBack) hs]; rfl⟩
  obtain ⟨t, h, hstep⟩ | ⟨e, -, hfault⟩ | ⟨_, _, _, hfetch, -⟩ := stageAction_outcome ht
  · have hregs : (t.core k).regs = (s.core k).regs.set d.reg.toNat d.val d.reg.isLt := by
      cases hstep with
      | outside _ _ hle => omega
      | idle _ _ hidle => simp [StageFlags.get, hs] at hidle
      | acted _ _ c _ _ hc =>
        rw [State.core_setCore_self _ _ _ hk, hc.regs_writeBack, Core.applyDeferred_eq, Core.regsApplied, hd]
    refine ⟨_, by rw [h]; rfl, ?_, fun r hr => ?_⟩
    · simp only [State.reg, State.core_give, hregs, Vector.getElem_set_self]
    · have hne : d.reg.toNat ≠ r.toNat := fun heq => hr (BitVec.eq_of_toNat_eq heq).symm
      simp only [State.reg, State.core_give, hregs, Vector.getElem_set_ne _ _ hne]
  · cases hfault
  · cases hfetch

/-! ## The branch flush -/

section
variable {s : State} {k : Nat}

theorem actsOn_decodeBranch_taken {cond : Cond} {rs rt : Reg} (imm : Imm) (h : cond.holds (s.reg k rs) (s.reg k rt) = true) :
    ActsOn k s.cfg (SameOutside k) (decodeBranch cond rs rt imm) (s.core k)
      ({ s.core k with pc := immWord imm, branchTaken := true }.hand .decode (readOperands s k rs (.reg rt))) :=
  actsOn_decodeBranch (taken := True) imm (by simpa using h)

/-- Decode of a branch that is taken, and of JAL, sends `pc` to the target, raises `branch_taken` and hands its record on (R89, R96). -/
theorem actsOn_decode_taken {i : Instr} {target : Word}
    (h : (∃ rd imm, i = .jal rd imm ∧ target = immWord imm) ∨
      ∃ rs rt imm, target = immWord imm ∧
        ((i = .beq rs rt imm ∧ s.reg k rs = s.reg k rt) ∨ (i = .bne rs rt imm ∧ s.reg k rs ≠ s.reg k rt) ∨
          (i = .blt rs rt imm ∧ (s.reg k rs).toInt < (s.reg k rt).toInt) ∨
          (i = .bgt rs rt imm ∧ (s.reg k rs).toInt > (s.reg k rt).toInt) ∨
          (i = .ble rs rt imm ∧ (s.reg k rs).toInt ≤ (s.reg k rt).toInt) ∨
          (i = .bge rs rt imm ∧ (s.reg k rs).toInt ≥ (s.reg k rt).toInt))) :
    ∃ v : Slot, v.content = (s.slot k .decode).content ∧
      ActsOn k s.cfg (SameOutside k) (decodeAction i) (s.core k)
        ({ s.core k with pc := target, branchTaken := true }.hand .decode v) := by
  obtain ⟨rd, imm, rfl, rfl⟩ | ⟨rs, rt, imm, rfl, hcond⟩ := h
  · exact ⟨{ readOperands s k 0 (.reg 0) with ret := (s.slot k .decode).ipc + 1 }, rfl, actsOn_decodeJal imm⟩
  · refine ⟨readOperands s k rs (.reg rt), rfl, ?_⟩
    obtain ⟨rfl, h⟩ | ⟨rfl, h⟩ | ⟨rfl, h⟩ | ⟨rfl, h⟩ | ⟨rfl, h⟩ | ⟨rfl, h⟩ := hcond <;>
      exact actsOn_decodeBranch_taken imm (decide_eq_true h)

end

/-- Settles O32: Decode's step ends with `branch_taken` set, so Fetch's step is the flush. -/
theorem takenBranchFlushesOneSlot : Obligations.TakenBranchFlushesOneSlot := by
  intro s k i target ht hk hsd hsf h0 hi ⟨he, hm, hw⟩ htaken
  have hrelease := State.core_modCore_self s k Core.releaseDecode hk
  have hreg : ∀ r, (s.modCore k Core.releaseDecode).reg k r = s.reg k r := by
    intro r
    simp only [State.reg, hrelease, Core.releaseDecode]
  simp only [← hreg] at htaken
  obtain ⟨v, hv, hacts⟩ := actsOn_decode_taken htaken
  obtain ⟨t1, h1, hout, hc1⟩ := hacts (s.modCore k Core.releaseDecode) (by simpa using hk) rfl rfl
  rw [State.slot, hrelease] at hv
  rw [hrelease] at hc1
  have hdecode : step s = .next (t1.give (.stage k .fetch)) := by
    rw [step_decode_instr ht hsd h0 hi he hm hw, exec_decode i (by exact ht), h1, onNext_next]
  have hstage : fetchStage k (t1.give (.stage k .fetch)) = .next ((t1.give (.stage k .fetch)).modCore k Core.flushFetch) :=
    fetchStage_flush (by rw [State.core_give, hc1]; exact hsf) (by rw [State.core_give, hc1]; rfl)
      (by rw [State.core_give, hc1]; rfl)
  have hfetch : step (t1.give (.stage k .fetch)) =
      .next (((t1.give (.stage k .fetch)).modCore k Core.flushFetch).give (.cycleStart (k + 1))) := by
    rw [step_of_turn rfl, stageAction, hstage]
    rfl
  have hout := (sameOutside_modCore k s Core.releaseDecode).trans hout
  have hk1 : k < t1.nCores := by rw [hout.1.cfg_nCores.2]; exact hk
  have hcore := State.core_modCore_self (t1.give (.stage k .fetch)) k Core.flushFetch hk1
  rw [State.core_give, hc1] at hcore
  have hrun : runSteps 2 s = .next (((t1.give (.stage k .fetch)).modCore k Core.flushFetch).give (.cycleStart (k + 1))) := by
    rw [runSteps, hdecode, onNext_next, runSteps_one, hfetch]
  refine ⟨_, (run_eq_runSteps 2 s).trans hrun, ?_, ?_, ?_, ?_, ?_, rfl,
    hout.trans ((sameOutside_give k t1 _).trans ((sameOutside_modCore k _ _).trans (sameOutside_give k _ _)))⟩
  · rw [State.slot, State.core_give, hcore]
    rfl
  · rw [State.slot, State.core_give, hcore]
    rfl
  · rw [State.slot, State.core_give, hcore]
    exact hv.trans hi
  · rw [State.core_give, hcore]
    rfl
  · rw [State.core_give, hcore]
    rfl

end Sys2Proof.Machine
end
